-- ==== Sys2Proof/Word.lean ====
section
/-! DEFINITION. The widths of the block (R7, R30, R71, R73, R88): bytes on the wire, the conversion word, command words, and the operand fields. -/

namespace Sys2Proof

/-- One byte on the wire; bit 0 is its least significant bit (R7). -/
abbrev Byte := BitVec 8

/-- The 16-bit unsigned conversion word, and READV's 16-bit reference (R74, REFW of R6). -/
abbrev Word16 := BitVec 16

/-- A 24-bit chip register: Offset, Gain (R36). -/
abbrev Word24 := BitVec 24

/-- A command word, and the data of a response (CMDW of R6, R88, R93). -/
abbrev Word32 := BitVec 32

/-- A 3-bit register selector (R30). -/
abbrev Sel := BitVec 3

/-- A 2-bit channel code (R50). -/
abbrev Chan := BitVec 2

/-- A one-bit field: direction, clock-disable, divider, polarity, buffer, FSYNC, DRDY, the chip-select level. -/
abbrev Bit := BitVec 1

end Sys2Proof
end

