-- ==== Sys2Proof/Config.lean ====
section
/-! DEFINITION. What is fixed for one machine (the parameters of R6, with the code maps of R77 to R83) and the free values, which the spec leaves open. -/

namespace Sys2Proof

/-! ## The named operand values (R84: closed enumerations) -/

/-- The eight chip registers (R30). -/
inductive RegName where
  | comm | setup | clock | data | test | noop | offset | gain
deriving DecidableEq, Repr

/-- The channel selectors; the source names only AIN1 (R78). -/
inductive ChanName where
  | ain1 | ain2 | third | fourth
deriving DecidableEq, Repr

/-- The eight update rates (R79). -/
inductive RateName where
  | hz20 | hz25 | hz50 | hz60 | hz100 | hz200 | hz250 | hz500
deriving DecidableEq, Repr

/-- The four operating modes (R80). -/
inductive ModeName where
  | normal | selfCal | zeroCal | fullCal
deriving DecidableEq, Repr

/-- The eight gains (R81). -/
inductive GainName where
  | x1 | x2 | x4 | x8 | x16 | x32 | x64 | x128
deriving DecidableEq, Repr

/-- The two input ranges (R82). -/
inductive PolName where
  | bipolar | unipolar
deriving DecidableEq, Repr

/-- The two clock divisions (R83). -/
inductive DivName where
  | x1 | x2
deriving DecidableEq, Repr

/-! ## CODES: the number of every name (R77 to R83), a parameter -/

/-- CODES.SEL (R77). -/
structure SelCodes where
  comm : Sel
  setup : Sel
  clock : Sel
  data : Sel
  test : Sel
  noop : Sel
  offset : Sel
  gain : Sel
deriving DecidableEq, Repr

/-- The channel codes (R78). -/
structure ChanCodes where
  ain1 : Chan
  ain2 : Chan
  third : Chan
  fourth : Chan
deriving DecidableEq, Repr

/-- The update-rate codes (R79). -/
structure RateCodes where
  hz20 : BitVec 3
  hz25 : BitVec 3
  hz50 : BitVec 3
  hz60 : BitVec 3
  hz100 : BitVec 3
  hz200 : BitVec 3
  hz250 : BitVec 3
  hz500 : BitVec 3
deriving DecidableEq, Repr

/-- The operating-mode codes (R80). -/
structure ModeCodes where
  normal : BitVec 2
  selfCal : BitVec 2
  zeroCal : BitVec 2
  fullCal : BitVec 2
deriving DecidableEq, Repr

/-- The gain codes (R81). -/
structure GainCodes where
  x1 : BitVec 3
  x2 : BitVec 3
  x4 : BitVec 3
  x8 : BitVec 3
  x16 : BitVec 3
  x32 : BitVec 3
  x64 : BitVec 3
  x128 : BitVec 3
deriving DecidableEq, Repr

/-- The polarity codes (R82). -/
structure PolCodes where
  bipolar : Bit
  unipolar : Bit
deriving DecidableEq, Repr

/-- The clock-divider codes (R83). -/
structure DivCodes where
  x1 : Bit
  x2 : Bit
deriving DecidableEq, Repr

/-- CODES of R6: seven maps from names to numbers. -/
structure Codes where
  sel : SelCodes
  chn : ChanCodes
  rate : RateCodes
  mode : ModeCodes
  gain : GainCodes
  pol : PolCodes
  div : DivCodes
deriving DecidableEq, Repr

/-! ## The parameters (R6) -/

/-- NUM_CHANNELS of R6: "two for the reduced-pin variant, four for the full variant" (D5). -/
inductive ChannelCount where
  | two
  | four
deriving DecidableEq, Repr

/-- The OPEN parameters of R6.  `pollBound = none` is INF. -/
structure Config where
  numChannels : ChannelCount
  codes : Codes
  dummyTx : Byte
  strictFraming : Bool
  pollBound : Option Nat
deriving DecidableEq, Repr

/-- R41: a ChannelConfig, by the names of its four values.  A value, not state. -/
structure ChannelConfig where
  div : DivName
  pol : PolName
  gain : GainName
  rate : RateName
deriving DecidableEq, Repr

/-! ## Free values -/

/-- A value that the spec leaves open: bit patterns the environment chooses (R64, U3, U4, U10).
`draw` counts the acts of the environment, `site` tells apart the values of one act.  It has no body:
nothing can be proved of it. -/
opaque Config.freeWord (draw site : Nat) : Word32

end Sys2Proof
end

