-- ==== Sys2Proof/Syntax.lean ====
section
/-! DEFINITION. The ten commands (R10), one constructor per row of spec/opcode_table.json, operands in the order of R10. -/

namespace Sys2Proof

/-- A command with its operands.  Every operand is a field of fixed width (R84), so none can be too wide. -/
inductive Instr where
  /-- CONSTRUCT (R101). -/
  | construct
  /-- SELECT sel, ch, dir (R102); `dir` 1 is a read. -/
  | select (sel : Sel) (ch : Chan) (dir : Bit)
  /-- WRCLK clkdis, div, rate (R120). -/
  | wrclk (clkdis : Bit) (div : Bit) (rate : BitVec 3)
  /-- WRSETUP mode, gain, pol, buf, fsync (R121). -/
  | wrsetup (mode : BitVec 2) (gain : BitVec 3) (pol : Bit) (buf : Bit) (fsync : Bit)
  /-- RDCONV (R140). -/
  | rdconv
  /-- READ ch (R141). -/
  | read (ch : Chan)
  /-- READV ch, reference (R142). -/
  | readv (ch : Chan) (reference : Word16)
  /-- DRDY ch (R143). -/
  | drdy (ch : Chan)
  /-- RESET (R170). -/
  | reset
  /-- INIT ch, div, pol, gain, rate (R171). -/
  | init (ch : Chan) (div : Bit) (pol : Bit) (gain : BitVec 3) (rate : BitVec 3)
deriving DecidableEq, Repr

end Sys2Proof
end

