-- ==== Sys2Proof/WellFormed.lean ====
section
/-! DEFINITION. Well-formed commands (a channel operand below NUM_CHANNELS: R50, R78, R90) and well-formed parameters (R6). -/

namespace Sys2Proof

/-- NUM_CHANNELS as a number (R6). -/
def ChannelCount.toNat : ChannelCount → Nat
  | .two => 2
  | .four => 4

/-- R90: a channel code is legal when it is below NUM_CHANNELS. -/
def ChannelCount.legal (n : ChannelCount) (ch : Chan) : Bool :=
  decide (ch.toNat < n.toNat)

/-- The channel operand of a command, for the commands that have one (R10). -/
def Instr.channel? : Instr → Option Chan
  | .construct => none
  | .select _ ch _ => some ch
  | .wrclk _ _ _ => none
  | .wrsetup _ _ _ _ _ => none
  | .rdconv => none
  | .read ch => some ch
  | .readv ch _ => some ch
  | .drdy ch => some ch
  | .reset => none
  | .init ch _ _ _ _ => some ch

/-- A command is well formed for a machine with `n` channels when its channel operand, if it has one, is legal.
The other operands are closed fields (R84): every value is legal. -/
def Instr.wf (n : ChannelCount) (i : Instr) : Bool :=
  i.channel?.all n.legal

/-- CODES.SEL as a list, in the order of R77. -/
def SelCodes.toList (c : SelCodes) : List Sel :=
  [c.comm, c.setup, c.clock, c.data, c.test, c.noop, c.offset, c.gain]

/-- R84: each map is an enumeration, so no two names of one map share a number. -/
def Codes.wf (c : Codes) : Bool :=
  decide c.sel.toList.Nodup &&
  decide [c.chn.ain1, c.chn.ain2, c.chn.third, c.chn.fourth].Nodup &&
  decide [c.rate.hz20, c.rate.hz25, c.rate.hz50, c.rate.hz60, c.rate.hz100, c.rate.hz200, c.rate.hz250, c.rate.hz500].Nodup &&
  decide [c.mode.normal, c.mode.selfCal, c.mode.zeroCal, c.mode.fullCal].Nodup &&
  decide [c.gain.x1, c.gain.x2, c.gain.x4, c.gain.x8, c.gain.x16, c.gain.x32, c.gain.x64, c.gain.x128].Nodup &&
  decide [c.pol.bipolar, c.pol.unipolar].Nodup &&
  decide [c.div.x1, c.div.x2].Nodup

/-- R6: POLL_BOUND is INF or at least 1; CODES is seven enumerations. -/
def Config.wf (c : Config) : Bool :=
  c.codes.wf && c.pollBound.all (fun n => decide (1 ≤ n))

end Sys2Proof
end

