-- ==== Sys2Proof/Decode.lean ====
section
/-! DEFINITION. Command words: the decoder and the encoder (R88, R89, R90), and the assembler's text (R91). -/

namespace Sys2Proof

/-- Why a word is no command (R88, R90). -/
inductive Illegal where
  /-- The opcode `cw[31:28]` is 0xA to 0xF. -/
  | reservedOpcode
  /-- The opcode is one of the ten and a bit outside the fields of its layout is set. -/
  | reservedBit
deriving DecidableEq, Repr

/-- One row of the command table: `cw` selects the row when `cw & mask = match` (R89). -/
structure Row where
  pattern : Word32
  mask : Word32
deriving DecidableEq, Repr

/-- R89: does the word select the row? -/
def Row.selects (r : Row) (w : Word32) : Bool :=
  decide (w &&& r.mask = r.pattern)

/-- CONSTRUCT's row (layout N, R89). -/
def Row.construct : Row := ⟨0x00000000, 0xFFFFFFFF⟩
/-- SELECT's row (layout S, R89). -/
def Row.select : Row := ⟨0x10000000, 0xFFFFFF84⟩
/-- WRCLK's row (layout K, R89). -/
def Row.wrclk : Row := ⟨0x20000000, 0xFFFFFFE0⟩
/-- WRSETUP's row (layout U, R89). -/
def Row.wrsetup : Row := ⟨0x30000000, 0xFFFFFF00⟩
/-- RDCONV's row (layout N, R89). -/
def Row.rdconv : Row := ⟨0x40000000, 0xFFFFFFFF⟩
/-- READ's row (layout C, R89). -/
def Row.read : Row := ⟨0x50000000, 0xFFFFFFFC⟩
/-- READV's row (layout V, R89). -/
def Row.readv : Row := ⟨0x60000000, 0xFF0000FC⟩
/-- DRDY's row (layout C, R89). -/
def Row.drdy : Row := ⟨0x70000000, 0xFFFFFFFC⟩
/-- RESET's row (layout N, R89). -/
def Row.reset : Row := ⟨0x80000000, 0xFFFFFFFF⟩
/-- INIT's row (layout I, R89). -/
def Row.init : Row := ⟨0x90000000, 0xFFFF00FC⟩

/-- The ten rows, in the order of their opcodes. -/
def Row.all : List Row :=
  [.construct, .select, .wrclk, .wrsetup, .rdconv, .read, .readv, .drdy, .reset, .init]

/-- The row of a command. -/
def Instr.row : Instr → Row
  | .construct => .construct
  | .select _ _ _ => .select
  | .wrclk _ _ _ => .wrclk
  | .wrsetup _ _ _ _ _ => .wrsetup
  | .rdconv => .rdconv
  | .read _ => .read
  | .readv _ _ => .readv
  | .drdy _ => .drdy
  | .reset => .reset
  | .init _ _ _ _ _ => .init

/-- R88: total; every word decodes to exactly one command with its operands, or to a named rejection.
The fields are those of R89. -/
def decode (w : Word32) : Except Illegal Instr :=
  if Row.construct.selects w then .ok .construct
  else if Row.select.selects w then
    .ok (.select (w.extractLsb' 4 3) (w.extractLsb' 0 2) (w.extractLsb' 3 1))
  else if Row.wrclk.selects w then
    .ok (.wrclk (w.extractLsb' 4 1) (w.extractLsb' 3 1) (w.extractLsb' 0 3))
  else if Row.wrsetup.selects w then
    .ok (.wrsetup (w.extractLsb' 6 2) (w.extractLsb' 3 3) (w.extractLsb' 2 1) (w.extractLsb' 1 1) (w.extractLsb' 0 1))
  else if Row.rdconv.selects w then .ok .rdconv
  else if Row.read.selects w then .ok (.read (w.extractLsb' 0 2))
  else if Row.readv.selects w then .ok (.readv (w.extractLsb' 0 2) (w.extractLsb' 8 16))
  else if Row.drdy.selects w then .ok (.drdy (w.extractLsb' 0 2))
  else if Row.reset.selects w then .ok .reset
  else if Row.init.selects w then
    .ok (.init (w.extractLsb' 0 2) (w.extractLsb' 11 1) (w.extractLsb' 12 1) (w.extractLsb' 13 3) (w.extractLsb' 8 3))
  else if 0xA#4 ≤ w.extractLsb' 28 4 then .error .reservedOpcode
  else .error .reservedBit

/-- The word of a command (R89): its fields at their places, every other bit 0 below the opcode. -/
def encode : Instr → Word32
  | .construct => 0x0#4 ++ 0#28
  | .select sel ch dir => 0x1#4 ++ 0#21 ++ sel ++ dir ++ 0#1 ++ ch
  | .wrclk clkdis div rate => 0x2#4 ++ 0#23 ++ clkdis ++ div ++ rate
  | .wrsetup mode gain pol buf fsync => 0x3#4 ++ 0#20 ++ mode ++ gain ++ pol ++ buf ++ fsync
  | .rdconv => 0x4#4 ++ 0#28
  | .read ch => 0x5#4 ++ 0#26 ++ ch
  | .readv ch reference => 0x6#4 ++ 0#4 ++ reference ++ 0#6 ++ ch
  | .drdy ch => 0x7#4 ++ 0#26 ++ ch
  | .reset => 0x8#4 ++ 0#28
  | .init ch div pol gain rate => 0x9#4 ++ 0#12 ++ gain ++ pol ++ div ++ rate ++ 0#6 ++ ch

/-- The command an opcode-table word stands for: `nbits` bits, bit 0 the least significant bit of the word; the bits above are 0. -/
def decodeTableWord (nbits w : Nat) : Option Instr :=
  (decode (BitVec.ofNat 32 (w % 2 ^ nbits))).toOption

/-- R91: a direction is written R or W. -/
def dirText (dir : Bit) : String := if dir = 1#1 then "R" else "W"

/-- R91: operands after the mnemonic, separated by commas. -/
def operandsText : List String → String
  | [] => ""
  | [a] => " " ++ a
  | a :: rest => " " ++ a ++ "," ++ operandsText rest

/-- R91: the mnemonic in capitals, then the operands in the order of R10; registers and channels by number. -/
def Instr.text : Instr → String
  | .construct => "CONSTRUCT"
  | .select sel ch dir => "SELECT" ++ operandsText [sel.toNat.repr, ch.toNat.repr, dirText dir]
  | .wrclk clkdis div rate => "WRCLK" ++ operandsText [clkdis.toNat.repr, div.toNat.repr, rate.toNat.repr]
  | .wrsetup mode gain pol buf fsync => "WRSETUP" ++
      operandsText [mode.toNat.repr, gain.toNat.repr, pol.toNat.repr, buf.toNat.repr, fsync.toNat.repr]
  | .rdconv => "RDCONV"
  | .read ch => "READ" ++ operandsText [ch.toNat.repr]
  | .readv ch reference => "READV" ++ operandsText [ch.toNat.repr, reference.toNat.repr]
  | .drdy ch => "DRDY" ++ operandsText [ch.toNat.repr]
  | .reset => "RESET"
  | .init ch div pol gain rate => "INIT" ++
      operandsText [ch.toNat.repr, div.toNat.repr, pol.toNat.repr, gain.toNat.repr, rate.toNat.repr]

end Sys2Proof
end

