-- ==== Sys2Proof/Machine/Params.lean ====
section
/-! DEFINITION. The defaults of the parameters (R6, R77 to R83), the lookups from a name to its number, and the default ChannelConfig (R41). -/

namespace Sys2Proof.Machine

/-- The default CODES (R77 to R83).  The numbers are the spec's general knowledge, not its source (D4). -/
def defaultCodes : Codes where
  sel := { comm := 0, setup := 1, clock := 2, data := 3, test := 4, noop := 5, offset := 6, gain := 7 }
  chn := { ain1 := 0, ain2 := 1, third := 2, fourth := 3 }
  rate := { hz20 := 0, hz25 := 1, hz100 := 2, hz200 := 3, hz50 := 4, hz60 := 5, hz250 := 6, hz500 := 7 }
  mode := { normal := 0, selfCal := 1, zeroCal := 2, fullCal := 3 }
  gain := { x1 := 0, x2 := 1, x4 := 2, x8 := 3, x16 := 4, x32 := 5, x64 := 6, x128 := 7 }
  pol := { bipolar := 0, unipolar := 1 }
  div := { x1 := 0, x2 := 1 }

/-- The default parameters (R6): four channels, DUMMY_TX 0x00, strict framing, POLL_BOUND = INF. -/
def defaultConfig : Config where
  numChannels := .four
  codes := defaultCodes
  dummyTx := 0x00
  strictFraming := true
  pollBound := none

/-- The selector of a register name (R77). -/
def selOf (c : SelCodes) : RegName → Sel
  | .comm => c.comm
  | .setup => c.setup
  | .clock => c.clock
  | .data => c.data
  | .test => c.test
  | .noop => c.noop
  | .offset => c.offset
  | .gain => c.gain

/-- The register a selector names, if any (R77 read backwards). -/
def regOf (c : SelCodes) (sel : Sel) : Option RegName :=
  [RegName.comm, .setup, .clock, .data, .test, .noop, .offset, .gain].find? fun r => decide (selOf c r = sel)

/-- The code of a channel name (R78). -/
def chanOf (c : ChanCodes) : ChanName → Chan
  | .ain1 => c.ain1
  | .ain2 => c.ain2
  | .third => c.third
  | .fourth => c.fourth

/-- The code of an update rate (R79). -/
def rateOf (c : RateCodes) : RateName → BitVec 3
  | .hz20 => c.hz20
  | .hz25 => c.hz25
  | .hz50 => c.hz50
  | .hz60 => c.hz60
  | .hz100 => c.hz100
  | .hz200 => c.hz200
  | .hz250 => c.hz250
  | .hz500 => c.hz500

/-- The code of an operating mode (R80). -/
def modeOf (c : ModeCodes) : ModeName → BitVec 2
  | .normal => c.normal
  | .selfCal => c.selfCal
  | .zeroCal => c.zeroCal
  | .fullCal => c.fullCal

/-- The code of a gain (R81). -/
def gainOf (c : GainCodes) : GainName → BitVec 3
  | .x1 => c.x1
  | .x2 => c.x2
  | .x4 => c.x4
  | .x8 => c.x8
  | .x16 => c.x16
  | .x32 => c.x32
  | .x64 => c.x64
  | .x128 => c.x128

/-- The code of a polarity (R82). -/
def polOf (c : PolCodes) : PolName → Bit
  | .bipolar => c.bipolar
  | .unipolar => c.unipolar

/-- The code of a clock divider (R83). -/
def divOf (c : DivCodes) : DivName → Bit
  | .x1 => c.x1
  | .x2 => c.x2

/-- R41: "has defaults (divider ×1, bipolar, gain ×1, 25 Hz)". -/
def defaultChannelConfig : ChannelConfig where
  div := .x1
  pol := .bipolar
  gain := .x1
  rate := .hz25

/-- R41: the INIT command of a channel name and a ChannelConfig, under a code map. -/
def initCommand (c : Codes) (ch : ChanName) (cfg : ChannelConfig) : Instr :=
  .init (chanOf c.chn ch) (divOf c.div cfg.div) (polOf c.pol cfg.pol) (gainOf c.gain cfg.gain) (rateOf c.rate cfg.rate)

end Sys2Proof.Machine
end

