-- ==== Sys2Proof/Machine/State.lean ====
section
/-! DEFINITION. The state of the machine, whole (R20): the block, what is recorded of its wire, the ghost channel state, the chip, the parameters, and the inputs still to come. -/

namespace Sys2Proof.Machine

/-- One value per channel code 0 to 3. -/
structure PerChan (α : Type) where
  c0 : α
  c1 : α
  c2 : α
  c3 : α
deriving DecidableEq, Repr

/-! ## Block state -/

/-- R21: where the block is in its lifetime. -/
inductive Life where
  | unbuilt
  | ready
  | busy
  | aborted
deriving DecidableEq, Repr

/-- R23: the block's record of the access the chip has been told to expect. -/
inductive Frame where
  | idle
  | framed (sel : Sel) (ch : Chan) (dir : Bit)
  | unknown
deriving DecidableEq, Repr

/-- R24: the step labels of the command rules, with what a label still needs of the label before it:
the outcome of a poll, the raw word, RESET's byte counter.  A poll is Y0 then Y1 (R143), inside L0 of
READ and READV and inside I4 of INIT as well. -/
inductive Label where
  /-- CONSTRUCT K0: drive chip-select. -/
  | k0
  /-- CONSTRUCT K1. -/
  | k1
  /-- SELECT S0. -/
  | s0
  /-- WRCLK W0. -/
  | w0
  /-- WRSETUP T0. -/
  | t0
  /-- RDCONV Q0. -/
  | q0
  /-- DRDY Y0: the COMM byte. -/
  | y0
  /-- DRDY Y1: the status byte. -/
  | y1
  /-- READ, READV L0, at Y0 of the poll. -/
  | l0y0
  /-- READ, READV L0, at Y1 of the poll. -/
  | l0y1
  /-- READ, READV L1, with the poll's outcome. -/
  | l1 (ready : Bool)
  /-- READ, READV L2: the COMM byte of the data read. -/
  | l2
  /-- READ, READV L3: the data word. -/
  | l3
  /-- READV V1, with the raw word. -/
  | v1 (raw : Word16)
  /-- RESET Z0. -/
  | z0
  /-- RESET Z1, with the counter `i`. -/
  | z1 (i : Nat)
  /-- RESET Z2. -/
  | z2
  /-- INIT I0: the COMM byte of the clock write. -/
  | i0
  /-- INIT I1: the clock byte. -/
  | i1
  /-- INIT I2: the COMM byte of the setup write. -/
  | i2
  /-- INIT I3: the setup byte. -/
  | i3
  /-- INIT I4, at Y0 of the poll. -/
  | i4y0
  /-- INIT I4, at Y1 of the poll. -/
  | i4y1
  /-- INIT I5, with the poll's outcome. -/
  | i5 (ready : Bool)
  /-- INIT I6. -/
  | i6
deriving DecidableEq, Repr

/-- R24: the position inside the command being executed.  `violated` is R100's flag: the command runs
although its framing precondition failed (only with STRICT_FRAMING = false). -/
structure MicroSeq where
  cmd : Instr
  violated : Bool
  label : Label
deriving DecidableEq, Repr

/-- R190: the codes of `rsp.err`. -/
inductive Err where
  | none
  | transportFault
  | protocolTimeout
  | framingViolation
  | illegalCommand
  | illegalChannel
  | notConstructed
  | alreadyConstructed
  | aborted
deriving DecidableEq, Repr

/-- R26, R93: the response of the last command. -/
structure Rsp where
  err : Err
  data : Word32
deriving DecidableEq, Repr

/-- R27: the sticky record of a transport failure. -/
inductive FaultRecord where
  | none
  | transportFault
deriving DecidableEq, Repr

/-- R28: the event XFER(tx, rx) of one transfer. -/
structure XferEvent where
  tx : List Byte
  rx : List Byte
deriving DecidableEq, Repr

/-- R40: the ghost state of one channel. -/
inductive ChanState where
  | uninit
  | calibrating
  | ready
deriving DecidableEq, Repr

/-! ## The chip (environment state, R30 to R39; the block never reads it but through a transfer) -/

/-- R38: what the chip takes the next transfer to be. -/
inductive Pending where
  /-- A communication-register write. -/
  | expectComm
  /-- The data phase of this access. -/
  | op (sel : Sel) (ch : Chan) (dir : Bit)
deriving DecidableEq, Repr

/-- The registers the chip answers with for one channel code (R32, R33, R34, R36).
DESIGN CHOICE (log entry 11): each of the four channel codes has all five of its own.  Whether Setup and Clock exist once or per
channel is not in the source (N18), nor whether Data is one register read for a channel or one per channel (R30, R34), nor which
Offset and Gain pair a code maps to and whether two codes share one (R36, N4, G3). -/
structure ChanRegs where
  setup : Byte
  clock : Byte
  data : Word16
  offset : Word24
  gain : Word24
deriving DecidableEq, Repr

/-- The chip: its Communication register as last written (R31), Test (R35), DRDY (R37: 0 is ready), the pending
operation (R38), and the registers per channel.  No-Op is given no content by any source (R35).
DESIGN CHOICE (log entry 12): one Test for the whole chip; R30's table says "not said" of Test per channel.
DESIGN CHOICE (log entry 11): one DRDY; R37 says only that it is read for the channel named in the COMM byte. -/
structure Chip where
  comm : Byte
  test : Byte
  drdy : Bit
  pending : Pending
  regs : PerChan ChanRegs
deriving DecidableEq, Repr

/-! ## Inputs -/

/-- What the transport does at one act (a transfer, or the chip-select drive of CONSTRUCT): it completes, the chip
answering with these bytes (a byte the list lacks is a free value, R64), or it reports failure (R8, R101, R191). -/
inductive Answer where
  | ok (bytes : List Byte)
  | fail
deriving DecidableEq, Repr

/-! ## The machine -/

/-- The complete state (R20). -/
structure State where
  /-- R21 -/
  life : Life
  /-- R22: 1 is deasserted. -/
  cs : Bit
  /-- R23 -/
  frame : Frame
  /-- R24 -/
  seq : Option MicroSeq
  /-- R25 -/
  pollCount : Nat
  /-- R26 -/
  rsp : Option Rsp
  /-- R27 -/
  fault : FaultRecord
  /-- R28: oldest first. -/
  trace : List XferEvent
  /-- R40: ghost. -/
  chan : PerChan ChanState
  /-- R30 to R39: environment. -/
  chip : Chip
  /-- R6: the parameters; no step changes them. -/
  cfg : Config
  /-- The model's own: the command words the host has still to present, in order (R11). -/
  cmds : List Word32
  /-- The model's own: what the transport will do at its next acts, in order; after the last, free values (R64). -/
  script : List Answer
  /-- The model's own: the environment's acts so far; the free values are drawn by it. -/
  draws : Nat
deriving DecidableEq, Repr

/-- Why a step stops.  Both name states that no run reaches. -/
inductive Fault where
  /-- Raised by `step` when `life` is BUSY and `seq` names no command (against R24).  Safe: no run reaches it. -/
  | busyWithoutSeq
  /-- Raised by a meaning when `seq` holds a label that is none of its command's (against R24).  Safe: no run reaches it. -/
  | labelOfAnotherCommand
deriving DecidableEq, Repr

/-- Why the model gives no meaning. -/
inductive Refusal where
  /-- Raised by an arm of `exec` whose command has no meaning yet; no arm does.  Safe. -/
  | notModelled (mnemonic : String)
  /-- Raised by a meaning asked to run while another command is BUSY: "The host must not present a command while
  `life = BUSY`; the spec gives such a presentation no meaning" (R232).  `step` never asks it.  Safe. -/
  | presentedWhileBusy
deriving DecidableEq, Repr

/-- One channel's registers after the chip's own power-on (PRESUMED, log entry 8). -/
def ChanRegs.powerOn : ChanRegs where
  setup := 0x01
  clock := 0x05
  data := 0x0000
  offset := 0x1F4000
  gain := 0x5761AB

/-- The chip after its own power-on (PRESUMED, log entry 8: the source gives none of it). -/
def Chip.powerOn : Chip where
  comm := 0x00
  test := 0x00
  drdy := 1
  pending := .expectComm
  regs := ⟨.powerOn, .powerOn, .powerOn, .powerOn⟩

/-- Power-on (R43, R220).  `cs` and `frame` have no value there: 0 and IDLE are DESIGN CHOICES (log entries 6, 7). -/
def State.reset : State where
  life := .unbuilt
  cs := 0
  frame := .idle
  seq := none
  pollCount := 0
  rsp := none
  fault := .none
  trace := []
  chan := ⟨.uninit, .uninit, .uninit, .uninit⟩
  chip := .powerOn
  cfg := defaultConfig
  cmds := []
  script := []
  draws := 0

end Sys2Proof.Machine
end

