-- ==== Sys2Proof/Machine/Flags.lean ====
section
/-! DEFINITION. The one flag the block reads (DRDY: R37, R75), and what a response says (R93, R190). -/

namespace Sys2Proof.Machine

/-- Bit 7 of a status byte: the DRDY flag (R37, R66). -/
def drdyBit (b : Byte) : Bit := b.extractLsb' 7 1

/-- R75: READY(b) = (b[7] = 0); bits 6:0 are ignored. -/
def readyByte (b : Byte) : Bool := decide (drdyBit b = 0#1)

/-- R190: the 4-bit code of each outcome. -/
def errCode : Err → BitVec 4
  | .none => 0
  | .transportFault => 1
  | .protocolTimeout => 2
  | .framingViolation => 3
  | .illegalCommand => 4
  | .illegalChannel => 5
  | .notConstructed => 6
  | .alreadyConstructed => 7
  | .aborted => 8

/-- R190: the codes that are refusals (3 to 8). -/
def Err.isRefusal : Err → Bool
  | .none => false
  | .transportFault => false
  | .protocolTimeout => false
  | .framingViolation => true
  | .illegalCommand => true
  | .illegalChannel => true
  | .notConstructed => true
  | .alreadyConstructed => true
  | .aborted => true

/-- R93, D2: the response as one word of 4 + 32 bits.
DESIGN CHOICE (log entry 24): `err` stands above `data`, in bits 35:32; R93 and D2 give the pair and its widths, no bit places. -/
def rspPort (r : Rsp) : BitVec 36 := errCode r.err ++ r.data

/-- R93: the data of a command that returns nothing. -/
def nothingData : Word32 := 0#32

/-- R93: READ and RDCONV give the word zero-extended. -/
def rawData (raw : Word16) : Word32 := raw.setWidth 32

/-- R93: DRDY gives 1 if ready, 0 if not. -/
def readyData (ready : Bool) : Word32 := if ready then 1#32 else 0#32

end Sys2Proof.Machine
end

