-- ==== Sys2Proof/Machine/Operands.lean ====
section
/-! DEFINITION. The wire formats: how operands become bytes and received bytes become values (R70 to R76, R85 to R87, R55). -/

namespace Sys2Proof.Machine

/-- R71: COMM(sel, ch, dir) = (sel << 4) | (dir << 3) | ch. -/
def commByte (sel : Sel) (ch : Chan) (dir : Bit) : Byte :=
  (sel.setWidth 8 <<< 4) ||| (dir.setWidth 8 <<< 3) ||| ch.setWidth 8

/-- R72: CLOCK(clkdis, div, rate): the three fields composed, then bit 2 cleared. -/
def clockByte (clkdis div : Bit) (rate : BitVec 3) : Byte :=
  ((clkdis.setWidth 8 <<< 4) ||| (div.setWidth 8 <<< 3) ||| rate.setWidth 8) &&& 0xFB#8

/-- R73: SETUP(mode, gain, pol, buf, fsync). -/
def setupByte (mode : BitVec 2) (gain : BitVec 3) (pol buf fsync : Bit) : Byte :=
  (mode.setWidth 8 <<< 6) ||| (gain.setWidth 8 <<< 3) ||| (pol.setWidth 8 <<< 2) ||| (buf.setWidth 8 <<< 1) |||
    fsync.setWidth 8

/-- R76: the resynchronisation byte. -/
def syncByte : Byte := 0xFF#8

/-- RESET_COUNT of R6: how many SYNC bytes RESET sends (R76, R170). -/
def resetCount : Nat := 100

/-- R74, R53: the first byte received is bits 15:8. -/
def dataWord (b0 b1 : Byte) : Word16 :=
  (b0.setWidth 16 <<< 8) ||| b1.setWidth 16

/-- R87, R85: the bytes the block can have sent as a COMM byte: bits 7 and 2 are 0. -/
def isCommByte (b : Byte) : Bool := decide (b &&& 0x84#8 = 0#8)

/-- R87: sel = b[6:4]. -/
def commSel (b : Byte) : Sel := b.extractLsb' 4 3
/-- R87: dir = b[3]. -/
def commDir (b : Byte) : Bit := b.extractLsb' 3 1
/-- R87: ch = b[1:0]. -/
def commChan (b : Byte) : Chan := b.extractLsb' 0 2

/-- R87: the bytes the block can have sent as a CLOCK byte. -/
def isClockByte (b : Byte) : Bool := decide (b &&& 0xE4#8 = 0#8)
/-- R87: clkdis = b[4]. -/
def clockClkdis (b : Byte) : Bit := b.extractLsb' 4 1
/-- R87: div = b[3]. -/
def clockDiv (b : Byte) : Bit := b.extractLsb' 3 1
/-- R87: rate = b[1:0], two bits: the operand's bit 2 is lost. -/
def clockRate (b : Byte) : BitVec 2 := b.extractLsb' 0 2

/-- R87: mode = b[7:6]. -/
def setupMode (b : Byte) : BitVec 2 := b.extractLsb' 6 2
/-- R87: gain = b[5:3]. -/
def setupGain (b : Byte) : BitVec 3 := b.extractLsb' 3 3
/-- R87: pol = b[2]. -/
def setupPol (b : Byte) : Bit := b.extractLsb' 2 1
/-- R87: buf = b[1]. -/
def setupBuf (b : Byte) : Bit := b.extractLsb' 1 1
/-- R87: fsync = b[0]. -/
def setupFsync (b : Byte) : Bit := b.extractLsb' 0 1

/-- R55, R86: the bytes of a register's data phase; not given for Test and No-Op. -/
def regWidth : RegName → Option Nat
  | .comm => some 1
  | .setup => some 1
  | .clock => some 1
  | .data => some 2
  | .test => none
  | .noop => none
  | .offset => some 3
  | .gain => some 3

end Sys2Proof.Machine
end

