-- ==== Sys2Proof/Machine/PerChan.lean ====
section
/-! DEFINITION. Reading and writing one value per channel code. -/

namespace Sys2Proof.Machine

/-- The value of a channel code. -/
def PerChan.get {α : Type} (v : PerChan α) (ch : Chan) : α :=
  if ch = 0#2 then v.c0 else if ch = 1#2 then v.c1 else if ch = 2#2 then v.c2 else v.c3

/-- The values with one channel code's replaced. -/
def PerChan.set {α : Type} (v : PerChan α) (ch : Chan) (a : α) : PerChan α :=
  if ch = 0#2 then { v with c0 := a } else if ch = 1#2 then { v with c1 := a }
  else if ch = 2#2 then { v with c2 := a } else { v with c3 := a }

/-- The same value for every channel code. -/
def PerChan.replicate {α : Type} (a : α) : PerChan α := ⟨a, a, a, a⟩

/-- Combine two families channel code by channel code. -/
def PerChan.zipWith {α β γ : Type} (f : α → β → γ) (v : PerChan α) (w : PerChan β) : PerChan γ :=
  ⟨f v.c0 w.c0, f v.c1 w.c1, f v.c2 w.c2, f v.c3 w.c3⟩

end Sys2Proof.Machine
end

