-- ==== Sys2Proof/Machine/ChipContract.lean ====
section
/-! DEFINITION. The chip as the spec describes it (R9, R30 to R39, R65 to R68): what one transfer does to it.
The bytes it answers are free (R64); this file only records what they and the bytes sent say of it.
The block never reads it. -/

namespace Sys2Proof.Machine

/-- A byte the environment chooses: byte `i` of act `draw` (R64, U4). -/
def freeRxByte (draw i : Nat) : Byte := (Config.freeWord draw (64 + i)).setWidth 8

/-- A register of the chip that no source determines, per channel: sites `base` to `base + 3`. -/
def freeChanRegs (draw base : Nat) : ChanRegs where
  setup := (Config.freeWord draw base).extractLsb' 0 8
  clock := (Config.freeWord draw base).extractLsb' 8 8
  data := (Config.freeWord draw base).extractLsb' 16 16
  offset := (Config.freeWord draw (base + 1)).setWidth 24
  gain := (Config.freeWord draw (base + 2)).setWidth 24

/-- A pending operation no source determines. -/
def freePending (draw : Nat) : Pending :=
  if (Config.freeWord draw 1).extractLsb' 0 1 = 0#1 then .expectComm
  else .op ((Config.freeWord draw 1).extractLsb' 4 3) ((Config.freeWord draw 1).extractLsb' 8 2)
    ((Config.freeWord draw 1).extractLsb' 12 1)

/-- A chip of which nothing is known (U2, U3, U10). -/
def freeChip (draw : Nat) : Chip where
  comm := (Config.freeWord draw 2).extractLsb' 0 8
  test := (Config.freeWord draw 2).extractLsb' 8 8
  drdy := (Config.freeWord draw 2).extractLsb' 16 1
  pending := freePending draw
  regs := ⟨freeChanRegs draw 10, freeChanRegs draw 20, freeChanRegs draw 30, freeChanRegs draw 40⟩

/-- What of a channel's registers changes on its own: conversions and calibrations run at times no source gives (N14,
R39), and a calibration may end its mode (R68).  Those become free; the clock byte and the rest of the setup byte stay. -/
def driftRegs (r f : ChanRegs) : ChanRegs :=
  { r with
    setup := (f.setup &&& 0xC0#8) ||| (r.setup &&& 0x3F#8)
    data := f.data
    offset := f.offset
    gain := f.gain }

/-- The chip at its next transfer: DRDY and what conversions and calibrations write are free. -/
def Chip.drift (draw : Nat) (c : Chip) : Chip :=
  { c with
    drdy := (freeChip draw).drdy
    regs := PerChan.zipWith driftRegs c.regs (freeChip draw).regs }

/-- R65: a byte taken as a communication-register write sets the pending operation; a byte that is no COMM byte is not
described (U2, U7).
DESIGN CHOICE (log entry 25): that holds for whichever command sent the byte.  With STRICT_FRAMING = false a WRCLK or WRSETUP
with no SELECT sends a byte to a chip that expects a communication-register write; U2 leaves its reaction open (R225), and the
model's chip takes a byte with bits 7 and 2 zero as the COMM byte it looks like. -/
def Chip.takeComm (draw : Nat) (b : Byte) (c : Chip) : Chip :=
  if isCommByte b then { c with comm := b, pending := .op (commSel b) (commChan b) (commDir b) } else freeChip draw

/-- R9, R120: the clock register takes the byte for the framed channel; the other channels' are not said (N18).
DESIGN CHOICE (log entry 25): a byte with bit 2 or bits 7:5 set, which a COMM byte, a setup byte or RESET's 0xFF may be, is stored
whole too; R85 and U7 leave the chip's reaction to it open. -/
def Chip.writeClock (draw : Nat) (ch : Chan) (b : Byte) (c : Chip) : Chip :=
  { c with
    pending := .expectComm
    regs := (PerChan.zipWith (fun r f => { r with clock := f.clock }) c.regs (freeChip draw).regs).set ch
      { c.regs.get ch with clock := b } }

/-- R9, R121: the setup register takes the byte for the framed channel; the other channels' are not said (N18).
R68: with mode = self-calibration DRDY reads not-ready while it runs. -/
def Chip.writeSetup (selfCal : BitVec 2) (draw : Nat) (ch : Chan) (b : Byte) (c : Chip) : Chip :=
  { c with
    pending := .expectComm
    drdy := if setupMode b = selfCal then 1#1 else c.drdy
    regs := (PerChan.zipWith (fun r f => { r with setup := f.setup }) c.regs (freeChip draw).regs).set ch
      { c.regs.get ch with setup := b } }

/-- R66: the byte a communication-register read returns carries DRDY in bit 7. -/
def Chip.readStatus (s : Byte) (c : Chip) : Chip :=
  { c with pending := .expectComm, drdy := drdyBit s }

/-- R34, R53: the word a data-register read returns is the register's content for the framed channel. -/
def Chip.readData (ch : Chan) (w : Word16) (c : Chip) : Chip :=
  { c with pending := .expectComm, regs := c.regs.set ch { c.regs.get ch with data := w } }

/-- R65: the transfer after a COMM byte is taken as that register's data phase, after which the chip expects a
communication-register write.  Every other register, direction or length is not described (U2, U5, R54, R55, N12).
DESIGN CHOICE (log entry 25): a transfer of the framed register's length is its data phase whichever command made it and whatever
bytes it sent (WRSETUP's byte after SELECT CLOCK, W; WRCLK's after SELECT SETUP, W; a COMM byte; RESET's 0xFF; any byte but DUMMY_TX
in a read); R55, R225, U2 and N8 leave the chip's reaction to such a one open. -/
def Chip.dataPhase (codes : Codes) (draw : Nat) (sel : Sel) (ch : Chan) (dir : Bit) (tx rx : List Byte) (c : Chip) : Chip :=
  match regOf codes.sel sel, decide (dir = 1#1), tx, rx with
  | some .comm, true, [_], [s] => c.readStatus s
  | some .data, true, [_, _], [b0, b1] => c.readData ch (dataWord b0 b1)
  | some .clock, false, [b], [_] => c.writeClock draw ch b
  | some .setup, false, [b], [_] => c.writeSetup codes.mode.selfCal draw ch b
  | _, _, _, _ => freeChip draw

/-- What one completed transfer does to the chip. -/
def Chip.transfer (codes : Codes) (draw : Nat) (tx rx : List Byte) (c : Chip) : Chip :=
  match c.pending with
  | .expectComm =>
    match tx with
    | [b] => (c.drift draw).takeComm draw b
    | _ => freeChip draw
  | .op sel ch dir => (c.drift draw).dataPhase codes draw sel ch dir tx rx

/-- R67, R38: after the 100 bytes of RESET the chip expects a communication-register write, whatever it expected
before; nothing is known of its registers (U10). -/
def resyncChip (draw : Nat) : Chip := { freeChip draw with pending := .expectComm }

end Sys2Proof.Machine
end

