-- ==== Sys2Proof/Machine/Ops.lean ====
section
/-! DEFINITION. The shared operations: the environment's acts, the transfer (R8), the transport fault (R191), refusals (R195), acceptance
(R100, R103), moving and ending the micro-sequence (R24), the poll and its loop (R143, R145), the command port. -/

namespace Sys2Proof.Machine

/-- What a meaning and a step answer. -/
abbrev Outcome := Host.Outcome State Fault Refusal

/-! ## The environment's acts -/

/-- What the transport does at its `k`-th coming act: what the script says; after the script, a free value (R64, R191). -/
def State.answer (s : State) (k : Nat) : Answer :=
  match s.script[k]? with
  | some a => a
  | none => if (Config.freeWord (s.draws + k) 0).extractLsb' 0 1 = 0#1 then .ok [] else .fail

/-- The `n` bytes the chip returns at act number `draw`: those the answer gives, a free byte for each it lacks (R64). -/
def receive (draw n : Nat) (bytes : List Byte) : List Byte :=
  (List.range n).map fun i => bytes.getD i (freeRxByte draw i)

/-- One act of the environment is over. -/
def State.drew (s : State) : State := { s with script := s.script.tail, draws := s.draws + 1 }

/-! ## The transport fault: the block's one exception (R191, R198) -/

/-- R191: `fault <- TransportFault`, `life <- ABORTED`, `rsp <- (1, 0)`, the running command stops; `trace`, `frame` and
`chan` keep their values; the level of `cs` and the chip are not known (U3).  Nothing returns from it (R199). -/
def State.transportFault (s : State) : State :=
  { s with
    fault := .transportFault
    life := .aborted
    rsp := some ⟨.transportFault, 0⟩
    seq := none
    cs := (Config.freeWord s.draws 3).extractLsb' 0 1
    chip := freeChip s.draws
    script := s.script.tail
    draws := s.draws + 1 }

/-! ## The transfer (R8) -/

/-- R8, steps (1) to (4) of a transfer that completes: chip-select is low during it and high after; the event is appended. -/
def State.exchanged (s : State) (tx rx : List Byte) : State :=
  { s with
    cs := 1
    trace := s.trace ++ [⟨tx, rx⟩]
    chip := s.chip.transfer s.cfg.codes s.draws tx rx
    script := s.script.tail
    draws := s.draws + 1 }

/-- R8: Xfer(tx), then `k` with the bytes received; if the transport fails, none of it but the fault. -/
def xfer (tx : List Byte) (k : List Byte → State → State) (s : State) : State :=
  match s.answer 0 with
  | .ok bytes => k (receive s.draws tx.length bytes) (s.exchanged tx (receive s.draws tx.length bytes))
  | .fail => s.transportFault

/-- R101 K0, R22: drive chip-select high, then `k`; a drive that fails is a transport fault (R191). -/
def driveCsHigh (k : State → State) (s : State) : State :=
  match s.answer 0 with
  | .ok _ => k { s.drew with cs := 1 }
  | .fail => s.transportFault

/-! ## Moving and ending the micro-sequence (R24) -/

/-- Go to another label of the running command (R9, R24). -/
def State.goto (s : State) (q : MicroSeq) (l : Label) : State := { s with seq := some { q with label := l } }

/-- R103: the `frame` a command leaves: the table's, or UNKNOWN if its framing precondition had failed. -/
def MicroSeq.frameAfter (q : MicroSeq) (f : Frame) : Frame := if q.violated then .unknown else f

/-- A command completes (R12, R24, R93): `frame`, `rsp <- (0, data)`, `life <- READY`, `seq` dropped. -/
def State.complete (s : State) (f : Frame) (data : Word32) : State :=
  { s with frame := f, rsp := some ⟨.none, data⟩, life := .ready, seq := none }

/-- R192: a command stops with ProtocolTimeout; `fault` is not set and the block stays usable. -/
def State.timeout (s : State) (f : Frame) : State :=
  { s with frame := f, rsp := some ⟨.protocolTimeout, 0⟩, life := .ready, seq := none }

/-! ## Acceptance (R100, R103, R195) -/

/-- R103, the `frame_ok` column. -/
def frameOk (c : SelCodes) (f : Frame) : Instr → Bool
  | .construct => true
  | .select _ _ _ => decide (f = .idle)
  | .wrclk _ _ _ => match f with
    | .framed sel _ dir => decide (sel = c.clock) && decide (dir = 0#1)
    | _ => false
  | .wrsetup _ _ _ _ _ => match f with
    | .framed sel _ dir => decide (sel = c.setup) && decide (dir = 0#1)
    | _ => false
  | .rdconv => match f with
    | .framed sel _ dir => decide (sel = c.data) && decide (dir = 1#1)
    | _ => false
  | .read _ => decide (f = .idle)
  | .readv _ _ => decide (f = .idle)
  | .drdy _ => decide (f = .idle)
  | .reset => true
  | .init _ _ _ _ _ => decide (f = .idle)

/-- R24: the first label of each command. -/
def firstLabel : Instr → Label
  | .construct => .k0
  | .select _ _ _ => .s0
  | .wrclk _ _ _ => .w0
  | .wrsetup _ _ _ _ _ => .t0
  | .rdconv => .q0
  | .read _ => .l0y0
  | .readv _ _ => .l0y0
  | .drdy _ => .y0
  | .reset => .z0
  | .init _ _ _ _ _ => .i0

/-- R195: a refused command changes nothing but `rsp <- (code, 0)`. -/
def State.refuse (s : State) (e : Err) : State := { s with rsp := some ⟨e, 0⟩ }

/-- R100, R197: the checks of a decoded command in their order; the first that fails gives its code.
(IllegalCommand, the check between Aborted and NotConstructed, is `State.refuseIllegal`.) -/
def refusalOf (s : State) (i : Instr) : Option Err :=
  if s.life = .aborted then some .aborted
  else if s.life = .unbuilt ∧ i ≠ .construct then some .notConstructed
  else if s.life = .ready ∧ i = .construct then some .alreadyConstructed
  else if i.wf s.cfg.numChannels = false then some .illegalChannel
  else if frameOk s.cfg.codes.sel s.frame i = false ∧ s.cfg.strictFraming = true then some .framingViolation
  else none

/-- R100, the last line: `life <- BUSY`, `seq <- first label`, `poll_count <- 0`; `violated` if the framing precondition failed. -/
def State.begin (s : State) (i : Instr) : State :=
  { s with
    life := .busy
    seq := some ⟨i, !frameOk s.cfg.codes.sel s.frame i, firstLabel i⟩
    pollCount := 0 }

/-- R100: accept or refuse a decoded command presented while no command is running. -/
def accept (i : Instr) (s : State) : State :=
  match refusalOf s i with
  | some e => s.refuse e
  | none => s.begin i

/-- R100: a word that decodes to no command: Aborted comes before IllegalCommand. -/
def State.refuseIllegal (s : State) : State :=
  s.refuse (if s.life = .aborted then .aborted else .illegalCommand)

/-- One step of a command: presented while none is running, acceptance; while it is itself running, the step at its label
(`body`, which answers none for a label that is not its own).  R232 gives a command presented while another is BUSY no meaning. -/
def stepCommand (i : Instr) (body : MicroSeq → State → Option State) (s : State) : Outcome :=
  if s.life = .busy then
    match s.seq with
    | none => .refused .presentedWhileBusy
    | some q =>
      if q.cmd = i then
        match body q s with
        | some s' => .next s'
        | none => .fault .labelOfAnotherCommand
      else .refused .presentedWhileBusy
  else .next (accept i s)

/-! ## The poll (R143) and the poll loop (R145) -/

/-- R52, R65: the framing transfer of an access; then `frame <- FRAMED(sel, ch, dir)` and the label of the data phase. -/
def frameAccess (sel : Sel) (ch : Chan) (dir : Bit) (next : Label) (q : MicroSeq) (s : State) : State :=
  xfer [commByte sel ch dir] (fun _ s => { s with frame := .framed sel ch dir }.goto q next) s

/-- R143 Y0: frame a communication-register read. -/
def pollFrame (ch : Chan) (next : Label) (q : MicroSeq) (s : State) : State :=
  frameAccess s.cfg.codes.sel.comm ch 1 next q s

/-- R143 Y1: the status byte; `frame <- IDLE`; then `k` with whether bit 7 of it is 0. -/
def pollRead (k : Bool → State → State) (s : State) : State :=
  xfer [s.cfg.dummyTx] (fun rx s => k (readyByte (rx.headD 0)) { s with frame := .idle }) s

/-- R145: does this unready poll exhaust POLL_BOUND? -/
def pollsExhausted (s : State) : Bool := s.cfg.pollBound.any fun n => decide (n ≤ s.pollCount + 1)

/-- R145 poll_again(P): count the unready poll, then stop with ProtocolTimeout or poll again from `p`. -/
def pollAgain (p : Label) (q : MicroSeq) (s : State) : State :=
  if pollsExhausted s then { s with pollCount := s.pollCount + 1 }.timeout (q.frameAfter .idle)
  else { s with pollCount := s.pollCount + 1 }.goto q p

/-! ## The command port (R11, R100) -/

/-- The word the host presents, when no command is running and it has one left. -/
def State.fetch (s : State) : Option (Word32 × State) :=
  match s.cmds with
  | [] => none
  | w :: rest => some (w, { s with cmds := rest })

/-- The host is to present this word next. -/
def State.present (s : State) (w : Word32) : State := { s with cmds := w :: s.cmds }

end Sys2Proof.Machine
end

