-- ==== Sys2Proof/Machine/Bringup.lean ====
section
/-! DEFINITION. RESET (R170) and INIT (R171), with the ghost channel state they drive (R40, R172). -/

namespace Sys2Proof.Machine

/-- R170, the labels Z0 to Z2: one SYNC byte per transfer, RESET_COUNT of them; at Z2 the chip expects a
communication-register write (R38, R67). -/
def resetBody (q : MicroSeq) (s : State) : Option State :=
  match q.label with
  | .z0 => some (s.goto q (.z1 0))
  | .z1 i => some (if i < resetCount then xfer [syncByte] (fun _ s => s.goto q (.z1 (i + 1))) s else s.goto q .z2)
  | .z2 => some ({ s with
      chan := .replicate .uninit
      chip := resyncChip s.draws
      draws := s.draws + 1 }.complete .idle nothingData)
  | _ => none

/-- RESET (R170): one step of it. -/
def execReset (s : State) : Outcome := stepCommand .reset resetBody s

/-- R171, the labels I0 to I6. -/
def initBody (ch : Chan) (div pol : Bit) (gain rate : BitVec 3) (q : MicroSeq) (s : State) : Option State :=
  match q.label with
  | .i0 => some (frameAccess s.cfg.codes.sel.clock ch 0 .i1 q s)
  | .i1 => some (xfer [clockByte 0 div rate] (fun _ s => { s with frame := .idle }.goto q .i2) s)
  | .i2 => some (frameAccess s.cfg.codes.sel.setup ch 0 .i3 q s)
  | .i3 => some (xfer [setupByte s.cfg.codes.mode.selfCal gain pol 0 0]
      (fun _ s => { s with frame := .idle, chan := s.chan.set ch .calibrating }.goto q .i4y0) s)
  | .i4y0 => some (pollFrame ch .i4y1 q s)
  | .i4y1 => some (pollRead (fun ready s => s.goto q (.i5 ready)) s)
  | .i5 ready => some (if ready then s.goto q .i6 else pollAgain .i4y0 q s)
  | .i6 => some ({ s with chan := s.chan.set ch .ready }.complete (q.frameAfter .idle) nothingData)
  | _ => none

/-- INIT ch, div, pol, gain, rate (R171): one step of it. -/
def execInit (ch : Chan) (div pol : Bit) (gain rate : BitVec 3) (s : State) : Outcome :=
  stepCommand (.init ch div pol gain rate) (initBody ch div pol gain rate) s

end Sys2Proof.Machine
end

