-- ==== Sys2Proof/Machine/Framing.lean ====
section
/-! DEFINITION. CONSTRUCT (R101) and SELECT (R102). -/

namespace Sys2Proof.Machine

/-- R101, the labels K0 and K1. -/
def constructBody (q : MicroSeq) (s : State) : Option State :=
  match q.label with
  | .k0 => some (driveCsHigh (fun s => s.goto q .k1) s)
  | .k1 => some ({ s with chan := .replicate .uninit }.complete .idle nothingData)
  | _ => none

/-- CONSTRUCT (R101): one step of it. -/
def execConstruct (s : State) : Outcome := stepCommand .construct constructBody s

/-- R102, the label S0. -/
def selectBody (sel : Sel) (ch : Chan) (dir : Bit) (q : MicroSeq) (s : State) : Option State :=
  match q.label with
  | .s0 => some (xfer [commByte sel ch dir] (fun _ s => s.complete (q.frameAfter (.framed sel ch dir)) nothingData) s)
  | _ => none

/-- SELECT sel, ch, dir (R102): one step of it. -/
def execSelect (sel : Sel) (ch : Chan) (dir : Bit) (s : State) : Outcome :=
  stepCommand (.select sel ch dir) (selectBody sel ch dir) s

end Sys2Proof.Machine
end

