-- ==== Sys2Proof/Machine/RegisterWrites.lean ====
section
/-! DEFINITION. WRCLK (R120) and WRSETUP (R121). -/

namespace Sys2Proof.Machine

/-- R120, the label W0. -/
def wrclkBody (clkdis div : Bit) (rate : BitVec 3) (q : MicroSeq) (s : State) : Option State :=
  match q.label with
  | .w0 => some (xfer [clockByte clkdis div rate] (fun _ s => s.complete (q.frameAfter .idle) nothingData) s)
  | _ => none

/-- WRCLK clkdis, div, rate (R120): one step of it. -/
def execWrclk (clkdis div : Bit) (rate : BitVec 3) (s : State) : Outcome :=
  stepCommand (.wrclk clkdis div rate) (wrclkBody clkdis div rate) s

/-- R121, the label T0. -/
def wrsetupBody (mode : BitVec 2) (gain : BitVec 3) (pol buf fsync : Bit) (q : MicroSeq) (s : State) : Option State :=
  match q.label with
  | .t0 => some (xfer [setupByte mode gain pol buf fsync] (fun _ s => s.complete (q.frameAfter .idle) nothingData) s)
  | _ => none

/-- WRSETUP mode, gain, pol, buf, fsync (R121): one step of it. -/
def execWrsetup (mode : BitVec 2) (gain : BitVec 3) (pol buf fsync : Bit) (s : State) : Outcome :=
  stepCommand (.wrsetup mode gain pol buf fsync) (wrsetupBody mode gain pol buf fsync) s

end Sys2Proof.Machine
end

