-- ==== Sys2Proof/Machine/Scaling.lean ====
section
/-! DEFINITION. The block's only arithmetic: READV's scaling law (R144). -/

namespace Sys2Proof.Machine

/-- FULL_SCALE_DIVISOR of R6: 65535, not 65536. -/
def fullScaleDivisor : Nat := 65535

/-- R144: the exact product, then truncating division. -/
def scale (raw reference : Word16) : Nat := raw.toNat * reference.toNat / fullScaleDivisor

/-- R93, R144: what READV responds with; `scale` fits in 16 bits, so nothing is lost. -/
def voltData (raw reference : Word16) : Word32 := BitVec.ofNat 32 (scale raw reference)

end Sys2Proof.Machine
end

