-- ==== Sys2Proof/Machine/Sampling.lean ====
section
/-! DEFINITION. RDCONV (R140), READ (R141), READV (R142) and DRDY (R143). -/

namespace Sys2Proof.Machine

/-- R140 Q0, R141 L3: the two-byte read of the data word under one chip-select assertion; then `k` with it (R53, R74). -/
def readWord (k : Word16 → State → State) (s : State) : State :=
  xfer [s.cfg.dummyTx, s.cfg.dummyTx] (fun rx s => k (dataWord (rx.getD 0 0) (rx.getD 1 0)) s) s

/-- R140, the label Q0. -/
def rdconvBody (q : MicroSeq) (s : State) : Option State :=
  match q.label with
  | .q0 => some (readWord (fun raw s => s.complete (q.frameAfter .idle) (rawData raw)) s)
  | _ => none

/-- RDCONV (R140): one step of it. -/
def execRdconv (s : State) : Outcome := stepCommand .rdconv rdconvBody s

/-- R141, the labels L0 (a poll: Y0, Y1) to L3; `k` ends the command with the raw word. -/
def readLabels (ch : Chan) (k : Word16 → State → State) (q : MicroSeq) (s : State) : Option State :=
  match q.label with
  | .l0y0 => some (pollFrame ch .l0y1 q s)
  | .l0y1 => some (pollRead (fun ready s => s.goto q (.l1 ready)) s)
  | .l1 ready => some (if ready then s.goto q .l2 else pollAgain .l0y0 q s)
  | .l2 => some (frameAccess s.cfg.codes.sel.data ch 1 .l3 q s)
  | .l3 => some (readWord k s)
  | _ => none

/-- R141: the labels L0 to L3. -/
def readBody (ch : Chan) (q : MicroSeq) (s : State) : Option State :=
  readLabels ch (fun raw s => s.complete (q.frameAfter .idle) (rawData raw)) q s

/-- READ ch (R141): one step of it. -/
def execRead (ch : Chan) (s : State) : Outcome := stepCommand (.read ch) (readBody ch) s

/-- R142: V0 is the labels L0 to L3 of READ, then V1 scales. -/
def readvBody (ch : Chan) (reference : Word16) (q : MicroSeq) (s : State) : Option State :=
  match q.label with
  | .v1 raw => some (s.complete (q.frameAfter .idle) (voltData raw reference))
  | _ => readLabels ch (fun raw s => { s with frame := .idle }.goto q (.v1 raw)) q s

/-- READV ch, reference (R142): one step of it. -/
def execReadv (ch : Chan) (reference : Word16) (s : State) : Outcome :=
  stepCommand (.readv ch reference) (readvBody ch reference) s

/-- R143: the labels Y0 and Y1. -/
def drdyBody (ch : Chan) (q : MicroSeq) (s : State) : Option State :=
  match q.label with
  | .y0 => some (pollFrame ch .y1 q s)
  | .y1 => some (pollRead (fun ready s => s.complete (q.frameAfter .idle) (readyData ready)) s)
  | _ => none

/-- DRDY ch (R143): one step of it. -/
def execDrdy (ch : Chan) (s : State) : Outcome := stepCommand (.drdy ch) (drdyBody ch) s

end Sys2Proof.Machine
end

