-- ==== Sys2Proof/Machine/Dispatch.lean ====
section
/-! DEFINITION. One arm per command: each calls its meaning. -/

namespace Sys2Proof.Machine

/-- One step of a command: its acceptance, or the step at the label it stands at (R5, R24). -/
def exec (i : Instr) (s : State) : Host.Outcome State Fault Refusal :=
  match i with
  | .construct => Sys2Proof.Machine.execConstruct s
  | .select sel ch dir => Sys2Proof.Machine.execSelect sel ch dir s
  | .wrclk clkdis div rate => Sys2Proof.Machine.execWrclk clkdis div rate s
  | .wrsetup mode gain pol buf fsync => Sys2Proof.Machine.execWrsetup mode gain pol buf fsync s
  | .rdconv => Sys2Proof.Machine.execRdconv s
  | .read ch => Sys2Proof.Machine.execRead ch s
  | .readv ch reference => Sys2Proof.Machine.execReadv ch reference s
  | .drdy ch => Sys2Proof.Machine.execDrdy ch s
  | .reset => Sys2Proof.Machine.execReset s
  | .init ch div pol gain rate => Sys2Proof.Machine.execInit ch div pol gain rate s

end Sys2Proof.Machine
end

