-- ==== Sys2Proof/Machine/Step.lean ====
section
/-! DEFINITION. One step of the machine (R5): the running command's, or the presentation of the host's next word (R100), or waiting for one. -/

namespace Sys2Proof.Machine

/-- One step.  While a command is BUSY, one step of it (the host has no move, R21).  Otherwise the host presents its next
word: a command is accepted or refused by its meaning, a word that decodes to none is refused (R100).
DESIGN CHOICE (log entry 10): with no word left the step answers the same state; the nearest sentence of the spec is R43's "the
block waits for a command". -/
def step (s : State) : Host.Outcome State Fault Refusal :=
  if s.life = .busy then
    match s.seq with
    | some q => exec q.cmd s
    | none => .fault .busyWithoutSeq
  else
    match s.fetch with
    | none => .next s
    | some (w, s') =>
      match decode w with
      | .ok i => exec i s'
      | .error _ => .next s'.refuseIllegal

/-- The host presents the word `w` (its `nbits` low bits, 0 above) next: it is put at the head of the words still to come. -/
def State.withFetchWord (s : State) (nbits w : Nat) : State :=
  s.present (BitVec.ofNat 32 (w % 2 ^ nbits))

end Sys2Proof.Machine
end

