-- ==== Sys2Proof/Safety.lean ====
section
/-! DEFINITION. The terms claims use: the invariant of every reachable state, the agreement of `frame` with the chip, the runs a claim may be made of, and states that differ only in what the block never reads. -/

namespace Sys2Proof.Machine

/-! ## The invariant -/

/-- R24: the labels of CONSTRUCT. -/
def Label.isConstruct : Label → Bool
  | .k0 | .k1 => true
  | _ => false

/-- R24: the labels of DRDY. -/
def Label.isDrdy : Label → Bool
  | .y0 | .y1 => true
  | _ => false

/-- R24: the labels L0 to L3 of READ and READV. -/
def Label.isRead : Label → Bool
  | .l0y0 | .l0y1 | .l1 _ | .l2 | .l3 => true
  | _ => false

/-- R24: READV's own label. -/
def Label.isScale : Label → Bool
  | .v1 _ => true
  | _ => false

/-- R24: the labels of RESET; its counter is at most RESET_COUNT. -/
def Label.isReset : Label → Bool
  | .z0 | .z2 => true
  | .z1 i => decide (i ≤ resetCount)
  | _ => false

/-- R24: the labels of INIT. -/
def Label.isInit : Label → Bool
  | .i0 | .i1 | .i2 | .i3 | .i4y0 | .i4y1 | .i5 _ | .i6 => true
  | _ => false

/-- R24: the labels of each command. -/
def Label.belongs (l : Label) : Instr → Bool
  | .construct => l.isConstruct
  | .select _ _ _ => decide (l = .s0)
  | .wrclk _ _ _ => decide (l = .w0)
  | .wrsetup _ _ _ _ _ => decide (l = .t0)
  | .rdconv => decide (l = .q0)
  | .read _ => l.isRead
  | .readv _ _ => l.isRead || l.isScale
  | .drdy _ => l.isDrdy
  | .reset => l.isReset
  | .init _ _ _ _ _ => l.isInit

/-- The labels at which a step makes a transfer, or drives chip-select (R5, R8, R101). -/
def Label.acts : Label → Bool
  | .k0 => true
  | .k1 => false
  | .s0 => true
  | .w0 => true
  | .t0 => true
  | .q0 => true
  | .y0 => true
  | .y1 => true
  | .l0y0 => true
  | .l0y1 => true
  | .l1 _ => false
  | .l2 => true
  | .l3 => true
  | .v1 _ => false
  | .z0 => false
  | .z1 i => decide (i < resetCount)
  | .z2 => false
  | .i0 => true
  | .i1 => true
  | .i2 => true
  | .i3 => true
  | .i4y0 => true
  | .i4y1 => true
  | .i5 _ => false
  | .i6 => false

/-- The value `frame` has at a label of a command whose framing precondition held (R102, R120, R121, R140 to R143, R171):
at the labels of a data phase, the access its COMM byte named; at the others IDLE.  CONSTRUCT and RESET rest on none. -/
def frameFits (c : SelCodes) (cmd : Instr) (f : Frame) : Label → Prop
  | .k0 => True
  | .k1 => True
  | .s0 => f = .idle
  | .w0 => frameOk c f cmd = true
  | .t0 => frameOk c f cmd = true
  | .q0 => frameOk c f cmd = true
  | .y0 => f = .idle
  | .y1 => ∃ ch, cmd.channel? = some ch ∧ f = .framed c.comm ch 1
  | .l0y0 => f = .idle
  | .l0y1 => ∃ ch, cmd.channel? = some ch ∧ f = .framed c.comm ch 1
  | .l1 _ => f = .idle
  | .l2 => f = .idle
  | .l3 => ∃ ch, cmd.channel? = some ch ∧ f = .framed c.data ch 1
  | .v1 _ => f = .idle
  | .z0 => True
  | .z1 _ => True
  | .z2 => True
  | .i0 => f = .idle
  | .i1 => ∃ ch, cmd.channel? = some ch ∧ f = .framed c.clock ch 0
  | .i2 => f = .idle
  | .i3 => ∃ ch, cmd.channel? = some ch ∧ f = .framed c.setup ch 0
  | .i4y0 => f = .idle
  | .i4y1 => ∃ ch, cmd.channel? = some ch ∧ f = .framed c.comm ch 1
  | .i5 _ => f = .idle
  | .i6 => f = .idle

/-- What holds of the position of a running command (R24, R100, R103). -/
structure MicroSeq.Fits (q : MicroSeq) (s : State) : Prop where
  /-- The label is one of the command's. -/
  label : q.label.belongs q.cmd = true
  /-- An illegal channel was refused at acceptance. -/
  channel : q.cmd.wf s.cfg.numChannels = true
  /-- Only STRICT_FRAMING = false lets a command run out of order. -/
  violated : q.violated = true → s.cfg.strictFraming = false
  /-- CONSTRUCT and RESET have no framing precondition. -/
  free : q.cmd = .construct ∨ q.cmd = .reset → q.violated = false
  /-- The frame of a command that runs in order. -/
  frame : q.violated = false → frameFits s.cfg.codes.sel q.cmd s.frame q.label

/-- The invariant of every reachable state. -/
structure State.Inv (s : State) : Prop where
  /-- R6: the parameters are legal ones. -/
  cfg : s.cfg.wf = true
  /-- R24: `seq` exists exactly while BUSY. -/
  seq_iff : s.seq.isSome = true ↔ s.life = .busy
  /-- The position of the running command. -/
  seq_fits : ∀ q, s.seq = some q → q.Fits s
  /-- R27: `fault = TransportFault` if and only if `life = ABORTED`. -/
  fault_iff : s.fault = .transportFault ↔ s.life = .aborted
  /-- R22: between transfers and between commands chip-select is high (after CONSTRUCT has driven it). -/
  cs_high : s.life = .ready ∨ (∃ q, s.seq = some q ∧ q.label ≠ .k0) → s.cs = 1
  /-- R23: "With STRICT_FRAMING = true the value UNKNOWN is never reached". -/
  frame_known : s.cfg.strictFraming = true → s.frame ≠ .unknown
  /-- R101, R220: no transfer before CONSTRUCT has completed. -/
  silent : s.life = .unbuilt ∨ (∃ q, s.seq = some q ∧ q.cmd = .construct) → s.trace = []
  /-- R145: a running command has made fewer unready polls than POLL_BOUND. -/
  polls : ∀ n, s.cfg.pollBound = some n → s.life = .busy → s.pollCount < n
  /-- R51: every transfer moves one byte or two, as many each way. -/
  trace_wf : ∀ e ∈ s.trace, e.rx.length = e.tx.length ∧ (e.tx.length = 1 ∨ e.tx.length = 2)
  /-- R40: a channel code the machine lacks is never brought up. -/
  chan_legal : ∀ ch, s.cfg.numChannels.legal ch = false → s.chan.get ch = .uninit
  /-- R93: with `err ≠ 0`, `data = 0`. -/
  rsp_wf : ∀ r, s.rsp = some r → r.err ≠ .none → r.data = 0
  /-- R43: a response stands once CONSTRUCT has ended. -/
  rsp_some : s.life = .ready ∨ s.life = .aborted → s.rsp.isSome = true

/-! ## `frame` and the chip's pending operation (R23, R38, R222) -/

/-- The pending operation a frame believes in; UNKNOWN believes nothing. -/
def Frame.belief : Frame → Option Pending
  | .idle => some .expectComm
  | .framed sel ch dir => some (.op sel ch dir)
  | .unknown => none

/-- `frame` is true of the chip (R38), wherever the spec lets it be relied on: not once ABORTED (R191), not while RESET is
under way (R67), not while a command runs out of order (R103, U2). -/
def State.FrameTrue (s : State) : Prop :=
  s.life ≠ .aborted → (∀ q, s.seq = some q → q.cmd ≠ .reset ∧ q.violated = false) →
    ∀ p, s.frame.belief = some p → s.chip.pending = p

/-! ## Runs -/

/-- `k` steps, stopping at the first fault or refusal. -/
def stepN : Nat → State → Outcome
  | 0, s => .next s
  | k + 1, s =>
    match step s with
    | .next s' => stepN k s'
    | .fault r => .fault r
    | .refused r => .refused r

/-- The command `i` is running at the label `l`; `v` says that its framing precondition failed. -/
def State.At (s : State) (i : Instr) (v : Bool) (l : Label) : Prop :=
  s.life = .busy ∧ s.seq = some ⟨i, v, l⟩

/-- The transport completes its `k`-th coming act, the chip returning the `n` bytes `rx` (R8, R64). -/
def State.Gives (s : State) (k n : Nat) (rx : List Byte) : Prop :=
  ∃ bytes, s.answer k = .ok bytes ∧ rx = receive (s.draws + k) n bytes

/-- The two events of poll `j`, for each of `k` polls (R143): `a j` comes in with the COMM byte, `st j` is the status byte. -/
def pollEvents (c : Config) (ch : Chan) (a st : Nat → Byte) (k : Nat) : List XferEvent :=
  (List.range k).flatMap fun j => [⟨[commByte c.codes.sel.comm ch 1], [a j]⟩, ⟨[c.dummyTx], [st j]⟩]

/-- From the `n`-th coming act on, the transport completes the acts of `k` polls; the bytes are those of `pollEvents`. -/
def State.GivesPolls (s : State) (n k : Nat) (a st : Nat → Byte) : Prop :=
  ∀ j < k, s.Gives (n + 2 * j) 1 [a j] ∧ s.Gives (n + 2 * j + 1) 1 [st j]

/-! ## Runs a claim may be made of (R195) -/

/-- R195: does the next step refuse a command?  "no claim is made of a run that contains one". -/
def stepRefuses (s : State) : Bool :=
  if s.life = .busy then false
  else match s.fetch with
    | none => false
    | some (w, s') => match decode w with
      | .ok i => (refusalOf s' i).isSome
      | .error _ => true

/-- `k` steps, none of which refuses a command or stops, ending in a block that is not ABORTED. -/
def cleanRun : Nat → State → Option State
  | 0, s => if s.life = .aborted then none else some s
  | k + 1, s =>
    if stepRefuses s then none
    else match step s with
      | .next s' => cleanRun k s'
      | .fault _ => none
      | .refused _ => none

/-! ## What the block never reads (R28, R40, R64) -/

/-- The same state but for `trace`, `chan` and the chip. -/
def State.withUnread (s : State) (trace : List XferEvent) (chan : PerChan ChanState) (chip : Chip) : State :=
  { s with trace := trace, chan := chan, chip := chip }

end Sys2Proof.Machine
end

