-- ==== Sys2Proof/Certificates/Slice0/Obligations.lean ====
section
/-! DEFINITION. The statements for the provers. -/

open Sys2Proof Sys2Proof.Machine

/-! ## Wire formats -/

/-- R71, whole: the formula, the fields at their bits, bits 7 and 2 zero, and the bijection with the bytes `b & 0x84 = 0`. -/
def Obligations.CommByteLayout : Prop :=
  (∀ (sel : Sel) (ch : Chan) (dir : Bit),
    (commByte sel ch dir).toNat = (sel.toNat <<< 4 ||| dir.toNat <<< 3 ||| ch.toNat) ∧
    (commByte sel ch dir).extractLsb' 4 3 = sel ∧ (commByte sel ch dir).extractLsb' 3 1 = dir ∧
    (commByte sel ch dir).extractLsb' 0 2 = ch ∧
    (commByte sel ch dir).getLsbD 7 = false ∧ (commByte sel ch dir).getLsbD 2 = false) ∧
  (∀ b : Byte, b &&& 0x84 = 0 ↔ ∃ sel ch dir, commByte sel ch dir = b) ∧
  (∀ sel ch dir sel' ch' dir', commByte sel ch dir = commByte sel' ch' dir' → sel = sel' ∧ ch = ch' ∧ dir = dir') ∧
  commByte 3 0 1 = 0x38

/-- R72, whole: composed, then bit 2 cleared; bits 7:5 zero; the rate's bit 2 never reaches the wire; the bytes are
exactly those with `b & 0xE4 = 0`, sixteen of them. -/
def Obligations.ClockByteLayout : Prop :=
  (∀ (clkdis div : Bit) (rate : BitVec 3),
    (clockByte clkdis div rate).toNat = ((clkdis.toNat <<< 4 ||| div.toNat <<< 3 ||| rate.toNat) &&& 0xFB) ∧
    (clockByte clkdis div rate).extractLsb' 4 1 = clkdis ∧ (clockByte clkdis div rate).extractLsb' 3 1 = div ∧
    (clockByte clkdis div rate).extractLsb' 0 2 = rate.extractLsb' 0 2 ∧
    (clockByte clkdis div rate).getLsbD 2 = false ∧ (clockByte clkdis div rate).extractLsb' 5 3 = 0 ∧
    clockByte clkdis div rate = clockByte clkdis div (rate &&& 3)) ∧
  (∀ b : Byte, b &&& 0xE4 = 0 ↔ ∃ clkdis div rate, clockByte clkdis div rate = b) ∧
  ((List.range 256).filter fun n => decide (n &&& 0xE4 = 0)).length = 16 ∧
  clockByte 0 0 1 = 0x01 ∧ clockByte 0 1 5 = 0x09

/-- R73, whole: the formula, and a bijection of the operands with the 256 bytes. -/
def Obligations.SetupByteLayout : Prop :=
  (∀ (mode : BitVec 2) (gain : BitVec 3) (pol buf fsync : Bit),
    (setupByte mode gain pol buf fsync).toNat =
      (mode.toNat <<< 6 ||| gain.toNat <<< 3 ||| pol.toNat <<< 2 ||| buf.toNat <<< 1 ||| fsync.toNat) ∧
    (setupByte mode gain pol buf fsync).extractLsb' 6 2 = mode ∧
    (setupByte mode gain pol buf fsync).extractLsb' 3 3 = gain ∧
    (setupByte mode gain pol buf fsync).extractLsb' 2 1 = pol ∧
    (setupByte mode gain pol buf fsync).extractLsb' 1 1 = buf ∧
    (setupByte mode gain pol buf fsync).extractLsb' 0 1 = fsync) ∧
  (∀ b : Byte, ∃ mode gain pol buf fsync, setupByte mode gain pol buf fsync = b) ∧
  setupByte 1 0 0 0 0 = 0x40

/-- R74 and R75, whole: the first byte received is bits 15:8 and every pair is a word; ready is bit 7 clear, bits 6:0 ignored. -/
def Obligations.ReceivedBytesDecode : Prop :=
  (∀ b0 b1 : Byte, (dataWord b0 b1).toNat = (b0.toNat <<< 8 ||| b1.toNat)) ∧
  (∀ w : Word16, ∃ b0 b1, dataWord b0 b1 = w) ∧
  dataWord 0x40 0x00 = 0x4000 ∧
  (∀ b : Byte, readyByte b = true ↔ b.getLsbD 7 = false) ∧
  (∀ b : Byte, readyByte b = readyByte (b &&& 0x80)) ∧
  readyByte 0x00 = true ∧ readyByte 0xFF = false

/-- R87, whole: the decoders of the three outgoing formats invert the encoders (CLOCK but for the rate's bit 2), each on
exactly the bytes its format has. -/
def Obligations.WireDecodersInvert : Prop :=
  (∀ (sel : Sel) (ch : Chan) (dir : Bit), isCommByte (commByte sel ch dir) = true ∧
    commSel (commByte sel ch dir) = sel ∧ commChan (commByte sel ch dir) = ch ∧ commDir (commByte sel ch dir) = dir) ∧
  (∀ b : Byte, isCommByte b = true ↔ b &&& 0x84 = 0) ∧
  (∀ b : Byte, isCommByte b = true → commByte (commSel b) (commChan b) (commDir b) = b) ∧
  (∀ (mode : BitVec 2) (gain : BitVec 3) (pol buf fsync : Bit),
    setupMode (setupByte mode gain pol buf fsync) = mode ∧ setupGain (setupByte mode gain pol buf fsync) = gain ∧
    setupPol (setupByte mode gain pol buf fsync) = pol ∧ setupBuf (setupByte mode gain pol buf fsync) = buf ∧
    setupFsync (setupByte mode gain pol buf fsync) = fsync) ∧
  (∀ b : Byte, setupByte (setupMode b) (setupGain b) (setupPol b) (setupBuf b) (setupFsync b) = b) ∧
  (∀ (clkdis div : Bit) (rate : BitVec 3), isClockByte (clockByte clkdis div rate) = true ∧
    clockClkdis (clockByte clkdis div rate) = clkdis ∧ clockDiv (clockByte clkdis div rate) = div ∧
    (clockRate (clockByte clkdis div rate)).toNat = (rate &&& 3).toNat) ∧
  (∀ b : Byte, isClockByte b = true ↔ b &&& 0xE4 = 0)

/-! ## Command words -/

/-- R88, R89: every command's word decodes to the command, every operand kept. -/
def Obligations.EncodedCommandDecodesBack : Prop :=
  ∀ i : Instr, decode (encode i) = .ok i

/-- R88: the decoder drops no bit: a word that decodes to a command is the command's word. -/
def Obligations.DecodedWordIsTheCommandsWord : Prop :=
  ∀ (w : Word32) (i : Instr), decode w = .ok i → encode i = w

/-- R88, R89, R90: a word decodes to a command exactly when one of the ten rows selects it, by `cw & mask = match`, and then
only one does; a word with a reserved opcode is rejected as that, every other word that no row selects for a reserved bit. -/
def Obligations.WordDecodesByItsRow : Prop :=
  ∀ w : Word32,
    (∀ i, decode w = .ok i → w &&& i.row.mask = i.row.pattern) ∧
    (∀ r ∈ Row.all, w &&& r.mask = r.pattern → ∃ i, decode w = .ok i ∧ i.row = r) ∧
    ((∀ r ∈ Row.all, w &&& r.mask ≠ r.pattern) →
      decode w = .error (if 0xA ≤ (w >>> 28).toNat then .reservedOpcode else .reservedBit)) ∧
    (0xA ≤ (w >>> 28).toNat → decode w = .error .reservedOpcode)

/-- The words of the spec's examples (R89) and of vectors 2.2, one or more for each layout: a sanity statement. -/
def Obligations.ExampleWordsDecode : Prop :=
  decode 0x00000000 = .ok .construct ∧ decode 0x10000038 = .ok (.select 3 0 1) ∧
  decode 0x20000001 = .ok (.wrclk 0 0 1) ∧ decode 0x30000040 = .ok (.wrsetup 1 0 0 0 0) ∧
  decode 0x40000000 = .ok .rdconv ∧ decode 0x50000000 = .ok (.read 0) ∧ decode 0x600CE400 = .ok (.readv 0 3300) ∧
  decode 0x70000001 = .ok (.drdy 1) ∧ decode 0x80000000 = .ok .reset ∧ decode 0x90000100 = .ok (.init 0 0 0 0 1) ∧
  decode 0x90007A01 = .ok (.init 1 1 1 3 2) ∧ decode 0x10000004 = .error .reservedBit ∧
  decode 0xA0000000 = .error .reservedOpcode

/-! ## Power-on and the shape of every reachable state -/

/-- The power-on column of R43 (R220), as far as the spec gives it: UNBUILT, no response, no fault, an empty trace, every
channel UNINIT, no command running, no poll counted.  The last clause is the model's choice: R6 takes the OPEN parameters as
arguments, and that State.reset has R6's defaults is log entry 4 (DESIGN CHOICE), with the numbers of the default CODES
log entry 17 (PRESUMED). -/
def Obligations.PowerOnState : Prop :=
  State.reset.life = .unbuilt ∧ State.reset.seq = none ∧ State.reset.pollCount = 0 ∧ State.reset.rsp = none ∧
  State.reset.fault = .none ∧ State.reset.trace = [] ∧ (∀ ch, State.reset.chan.get ch = .uninit) ∧
  State.reset.cfg = { numChannels := .four, codes := defaultCodes, dummyTx := 0x00, strictFraming := true, pollBound := none }

/-- Power-on meets the invariant. -/
def Obligations.PowerOnMeetsInvariant : Prop := State.reset.Inv

/-- From every state that meets the invariant, a step leads to one that does: `seq` exists exactly while BUSY and holds a
label of its command (R24); `fault = TransportFault` exactly when ABORTED (R27); chip-select is high between transfers (R22);
under STRICT_FRAMING `frame` is never UNKNOWN (R23) and stands, at every label, at the access the label needs (R103); fewer
unready polls than POLL_BOUND (R145); every transfer moves one byte or two (R51); channels the machine lacks stay UNINIT. -/
def Obligations.EveryStepKeepsInvariant : Prop :=
  ∀ s t : State, s.Inv → step s = .next t → t.Inv

/-- R23, R38, R65: `frame` stays true of the chip: once the chip expects what `frame` says, every step keeps it so, outside
the places where the spec gives `frame` no meaning (`State.FrameTrue`: ABORTED, a RESET under way, a command run out of order).
CONSTRUCT is left out: it assumes what the chip expects (R222; see ConstructAndResetEstablishFrame). -/
def Obligations.FrameStaysTrueOfTheChip : Prop :=
  ∀ s t : State, s.Inv → s.FrameTrue → (∀ q, s.seq = some q → q.cmd ≠ .construct) → step s = .next t → t.FrameTrue

/-- R222, D9: after CONSTRUCT `frame = IDLE` is an assumption about the chip, true if the chip then expected a
communication-register write; after RESET it is true whatever the chip expected before (R67, R38). -/
def Obligations.ConstructAndResetEstablishFrame : Prop :=
  (∀ (s : State) (v : Bool), s.At .construct v .k1 → s.chip.pending = .expectComm →
    ∃ t, exec .construct s = .next t ∧ t.frame = .idle ∧ t.FrameTrue) ∧
  (∀ (s : State) (v : Bool), s.At .reset v .z2 →
    ∃ t, exec .reset s = .next t ∧ t.frame = .idle ∧ t.chip.pending = .expectComm ∧ t.FrameTrue)

/-- The block always has a next step: no state that meets the invariant stops in a fault or a refusal of the model.  Of a BUSY
block that is R196 ("the block always has a next step") with R24.  The rest is the model's choice: with no word left the block
steps to the same state (log entry 10, DESIGN CHOICE), and a refused word is a next state (log entry 3, DESIGN CHOICE,
where R195 advises to make no claim of a run with a refusal). -/
def Obligations.BlockIsNeverStuck : Prop :=
  ∀ s : State, s.Inv → ∃ t, step s = .next t

/-! ## The step -/

/-- A step is: of a BUSY block, the running command's; otherwise the presentation of the host's next word, that of its command
if it decodes to one, a refusal if to none (R100: Aborted comes first).  Three things in it are the model's choice, no rule of the
spec: with no word left the block steps to the same state (log entry 10, DESIGN CHOICE; the nearest sentence is R43's "the block
waits for a command"), the words come from the list `cmds` (log entry 9, DESIGN CHOICE), and a refused word is a next state (log
entry 3, DESIGN CHOICE). -/
def Obligations.StepRunsTheDecodedCommand : Prop :=
  (∀ (s : State) (q : MicroSeq), s.life = .busy → s.seq = some q → step s = exec q.cmd s) ∧
  (∀ (s : State) (w : Word32) (rest : List Word32) (i : Instr), s.life ≠ .busy → s.cmds = w :: rest → decode w = .ok i →
    step s = exec i { s with cmds := rest }) ∧
  (∀ (s : State) (w : Word32) (rest : List Word32) (r : Illegal), s.life ≠ .busy → s.cmds = w :: rest →
    decode w = .error r → step s = .next { s with
      cmds := rest
      rsp := some ⟨if s.life = .aborted then .aborted else .illegalCommand, 0⟩ }) ∧
  (∀ s : State, s.life ≠ .busy → s.cmds = [] → step s = .next s)

/-- R8: one transfer. If the transport completes it: chip-select ends high, one event is appended, the bytes received go on to the
rest of the step; if it reports failure, the transport fault is taken and nothing else of the step happens. -/
def Obligations.TransferIsOneEvent : Prop :=
  ∀ (s : State) (tx : List Byte) (k : List Byte → State → State),
    (∀ rx, s.Gives 0 tx.length rx → xfer tx k s = k rx { s with
      cs := 1
      trace := s.trace ++ [⟨tx, rx⟩]
      chip := s.chip.transfer s.cfg.codes s.draws tx rx
      script := s.script.tail
      draws := s.draws + 1 } ∧ rx.length = tx.length) ∧
    (s.answer 0 = .fail → xfer tx k s = s.transportFault)

/-! ## Acceptance (R100, R103, R194, R195, R197) -/

/-- R100, R197: the checks in their order, for every command presented while none runs: the first that fails refuses, and a
refused command changes `rsp` alone. -/
def Obligations.ChecksRefuseInOrder : Prop :=
  ∀ (s : State) (i : Instr), s.life ≠ .busy →
    (s.life = .aborted → exec i s = .next { s with rsp := some ⟨.aborted, 0⟩ }) ∧
    (s.life = .unbuilt → i ≠ .construct → exec i s = .next { s with rsp := some ⟨.notConstructed, 0⟩ }) ∧
    (s.life = .ready → i = .construct → exec i s = .next { s with rsp := some ⟨.alreadyConstructed, 0⟩ }) ∧
    (s.life = .ready → i ≠ .construct → (∃ ch, i.channel? = some ch ∧ s.cfg.numChannels.toNat ≤ ch.toNat) →
      exec i s = .next { s with rsp := some ⟨.illegalChannel, 0⟩ }) ∧
    (s.life = .ready → i ≠ .construct → (∀ ch, i.channel? = some ch → ch.toNat < s.cfg.numChannels.toNat) →
      frameOk s.cfg.codes.sel s.frame i = false → s.cfg.strictFraming = true →
      exec i s = .next { s with rsp := some ⟨.framingViolation, 0⟩ })

/-- R100, last line; R25, R24: a command that passes every check becomes BUSY at its first label with no poll counted. -/
def Obligations.PassingCommandBegins : Prop :=
  ∀ (s : State) (i : Instr), ((s.life = .unbuilt ∧ i = .construct) ∨ (s.life = .ready ∧ i ≠ .construct)) →
    (∀ ch, i.channel? = some ch → ch.toNat < s.cfg.numChannels.toNat) →
    (frameOk s.cfg.codes.sel s.frame i = true ∨ s.cfg.strictFraming = false) →
    exec i s = .next { s with
      life := .busy
      seq := some ⟨i, !frameOk s.cfg.codes.sel s.frame i, firstLabel i⟩
      pollCount := 0 }

/-- The `frame_ok` column of R103, row by row. -/
def Obligations.FramingPreconditions : Prop :=
  ∀ (c : SelCodes) (f : Frame),
    frameOk c f .construct = true ∧ frameOk c f .reset = true ∧
    (∀ sel ch dir, frameOk c f (.select sel ch dir) = true ↔ f = .idle) ∧
    (∀ k d r, frameOk c f (.wrclk k d r) = true ↔ ∃ ch, f = .framed c.clock ch 0) ∧
    (∀ m g p b y, frameOk c f (.wrsetup m g p b y) = true ↔ ∃ ch, f = .framed c.setup ch 0) ∧
    (frameOk c f .rdconv = true ↔ ∃ ch, f = .framed c.data ch 1) ∧
    (∀ ch, frameOk c f (.drdy ch) = true ↔ f = .idle) ∧ (∀ ch, frameOk c f (.read ch) = true ↔ f = .idle) ∧
    (∀ ch r, frameOk c f (.readv ch r) = true ↔ f = .idle) ∧
    (∀ ch d p g r, frameOk c f (.init ch d p g r) = true ↔ f = .idle)

/-- R195: a word the block refuses, decoded or not, changes `rsp` alone (the word is consumed), to one of the codes 3 to 8 with
data 0; `life` and the wire are untouched. -/
def Obligations.RefusalChangesOnlyTheResponse : Prop :=
  ∀ (s t : State), stepRefuses s = true → step s = .next t →
    ∃ e : Err, 3 ≤ (errCode e).toNat ∧ (errCode e).toNat ≤ 8 ∧ t = { s with cmds := s.cmds.tail, rsp := some ⟨e, 0⟩ }

/-! ## The commands, step by step.  Each equation gives the whole next state: what it does not name is unchanged. -/

/-- CONSTRUCT (R101): K0 drives chip-select high; K1 sets `frame` IDLE and every channel UNINIT and completes; no transfer. -/
def Obligations.ConstructCompletes : Prop :=
  (∀ (s : State) (v : Bool) (bytes : List Byte), s.At .construct v .k0 → s.answer 0 = .ok bytes →
    exec .construct s = .next { s with
      cs := 1, seq := some ⟨.construct, v, .k1⟩, script := s.script.tail, draws := s.draws + 1 }) ∧
  (∀ (s : State) (v : Bool), s.At .construct v .k1 →
    exec .construct s = .next { s with
      frame := .idle, chan := ⟨.uninit, .uninit, .uninit, .uninit⟩, rsp := some ⟨.none, 0⟩, life := .ready, seq := none })

/-- SELECT (R102): one COMM byte; `frame <- FRAMED(sel, ch, dir)`, or UNKNOWN if it ran out of order (R103). -/
def Obligations.SelectCompletes : Prop :=
  ∀ (s : State) (sel : Sel) (ch : Chan) (dir : Bit) (v : Bool) (rx : List Byte),
    s.At (.select sel ch dir) v .s0 → s.Gives 0 1 rx →
    exec (.select sel ch dir) s = .next { s.exchanged [commByte sel ch dir] rx with
      frame := if v then .unknown else .framed sel ch dir, rsp := some ⟨.none, 0⟩, life := .ready, seq := none }

/-- WRCLK (R120): one CLOCK byte; `frame <- IDLE`. -/
def Obligations.WrclkCompletes : Prop :=
  ∀ (s : State) (clkdis div : Bit) (rate : BitVec 3) (v : Bool) (rx : List Byte),
    s.At (.wrclk clkdis div rate) v .w0 → s.Gives 0 1 rx →
    exec (.wrclk clkdis div rate) s = .next { s.exchanged [clockByte clkdis div rate] rx with
      frame := if v then .unknown else .idle, rsp := some ⟨.none, 0⟩, life := .ready, seq := none }

/-- WRSETUP (R121): one SETUP byte, whatever its mode; `frame <- IDLE`; `chan` is not changed. -/
def Obligations.WrsetupCompletes : Prop :=
  ∀ (s : State) (mode : BitVec 2) (gain : BitVec 3) (pol buf fsync : Bit) (v : Bool) (rx : List Byte),
    s.At (.wrsetup mode gain pol buf fsync) v .t0 → s.Gives 0 1 rx →
    exec (.wrsetup mode gain pol buf fsync) s = .next { s.exchanged [setupByte mode gain pol buf fsync] rx with
      frame := if v then .unknown else .idle, rsp := some ⟨.none, 0⟩, life := .ready, seq := none }

/-- RDCONV (R140): two bytes in one transfer; the response is the word, first byte high, zero-extended. -/
def Obligations.RdconvCompletes : Prop :=
  ∀ (s : State) (v : Bool) (b0 b1 : Byte), s.At .rdconv v .q0 → s.Gives 0 2 [b0, b1] →
    exec .rdconv s = .next { s.exchanged [s.cfg.dummyTx, s.cfg.dummyTx] [b0, b1] with
      frame := if v then .unknown else .idle
      rsp := some ⟨.none, BitVec.ofNat 32 (b0.toNat * 256 + b1.toNat)⟩, life := .ready, seq := none }

/-- DRDY (R143): the COMM byte of a communication-register read, then one byte; the response is 1 when bit 7 of the SECOND
received byte is 0, else 0; `frame <- IDLE`. -/
def Obligations.DrdyCompletes : Prop :=
  (∀ (s : State) (ch : Chan) (v : Bool) (rx : List Byte), s.At (.drdy ch) v .y0 → s.Gives 0 1 rx →
    exec (.drdy ch) s = .next { s.exchanged [commByte s.cfg.codes.sel.comm ch 1] rx with
      frame := .framed s.cfg.codes.sel.comm ch 1, seq := some ⟨.drdy ch, v, .y1⟩ }) ∧
  (∀ (s : State) (ch : Chan) (v : Bool) (b : Byte), s.At (.drdy ch) v .y1 → s.Gives 0 1 [b] →
    exec (.drdy ch) s = .next { s.exchanged [s.cfg.dummyTx] [b] with
      frame := if v then .unknown else .idle
      rsp := some ⟨.none, if b.getLsbD 7 then 0 else 1⟩, life := .ready, seq := none })

/-- READ and READV, labels L0 to L2 (R141, R142): a poll (two transfers); ready, on to the COMM byte of a data read of the same
channel. -/
def Obligations.ReadPollsThenFramesData : Prop :=
  ∀ (s : State) (i : Instr) (ch : Chan) (v : Bool), (i = .read ch ∨ ∃ r, i = .readv ch r) →
    (∀ rx, s.At i v .l0y0 → s.Gives 0 1 rx → exec i s = .next { s.exchanged [commByte s.cfg.codes.sel.comm ch 1] rx with
      frame := .framed s.cfg.codes.sel.comm ch 1, seq := some ⟨i, v, .l0y1⟩ }) ∧
    (∀ b, s.At i v .l0y1 → s.Gives 0 1 [b] → exec i s = .next { s.exchanged [s.cfg.dummyTx] [b] with
      frame := .idle, seq := some ⟨i, v, .l1 (!b.getLsbD 7)⟩ }) ∧
    (s.At i v (.l1 true) → exec i s = .next { s with seq := some ⟨i, v, .l2⟩ }) ∧
    (∀ rx, s.At i v .l2 → s.Gives 0 1 rx → exec i s = .next { s.exchanged [commByte s.cfg.codes.sel.data ch 1] rx with
      frame := .framed s.cfg.codes.sel.data ch 1, seq := some ⟨i, v, .l3⟩ })

/-- READ, label L3 (R141): the data word, raw, is the response. -/
def Obligations.ReadCompletes : Prop :=
  ∀ (s : State) (ch : Chan) (v : Bool) (b0 b1 : Byte), s.At (.read ch) v .l3 → s.Gives 0 2 [b0, b1] →
    exec (.read ch) s = .next { s.exchanged [s.cfg.dummyTx, s.cfg.dummyTx] [b0, b1] with
      frame := if v then .unknown else .idle
      rsp := some ⟨.none, BitVec.ofNat 32 (b0.toNat * 256 + b1.toNat)⟩, life := .ready, seq := none }

/-- READV, labels L3 and V1 (R142): the data word, then `(raw * reference) / 65535` is the response. -/
def Obligations.ReadvCompletes : Prop :=
  (∀ (s : State) (ch : Chan) (reference : Word16) (v : Bool) (b0 b1 : Byte),
    s.At (.readv ch reference) v .l3 → s.Gives 0 2 [b0, b1] →
    exec (.readv ch reference) s = .next { s.exchanged [s.cfg.dummyTx, s.cfg.dummyTx] [b0, b1] with
      frame := .idle, seq := some ⟨.readv ch reference, v, .v1 (BitVec.ofNat 16 (b0.toNat * 256 + b1.toNat))⟩ }) ∧
  (∀ (s : State) (ch : Chan) (reference raw : Word16) (v : Bool), s.At (.readv ch reference) v (.v1 raw) →
    exec (.readv ch reference) s = .next { s with
      frame := if v then .unknown else .idle
      rsp := some ⟨.none, BitVec.ofNat 32 (raw.toNat * reference.toNat / 65535)⟩, life := .ready, seq := none })

/-- RESET, step by step (R170): Z0; 100 times Z1, a one-byte transfer of 0xFF; Z2, which sets `frame` IDLE and every channel
UNINIT, whatever `frame` was. -/
def Obligations.ResetCompletes : Prop :=
  ∀ (s : State) (v : Bool),
    (s.At .reset v .z0 → exec .reset s = .next { s with seq := some ⟨.reset, v, .z1 0⟩ }) ∧
    (∀ i rx, i < 100 → s.At .reset v (.z1 i) → s.Gives 0 1 rx →
      exec .reset s = .next { s.exchanged [0xFF] rx with seq := some ⟨.reset, v, .z1 (i + 1)⟩ }) ∧
    (s.At .reset v (.z1 100) → exec .reset s = .next { s with seq := some ⟨.reset, v, .z2⟩ }) ∧
    (s.At .reset v .z2 → exec .reset s = .next { s with
      frame := .idle, chan := ⟨.uninit, .uninit, .uninit, .uninit⟩, chip := resyncChip s.draws, draws := s.draws + 1
      rsp := some ⟨.none, 0⟩, life := .ready, seq := none })

/-- INIT, step by step (R171): COMM and clock byte (clkdis 0), COMM and setup byte (self-calibration, buf 0, fsync 0), after which the channel
is CALIBRATING; polls; ready, the channel is READY and the command completes. -/
def Obligations.InitCompletes : Prop :=
  ∀ (s : State) (ch : Chan) (div pol : Bit) (gain rate : BitVec 3) (v : Bool),
    (∀ rx, s.At (.init ch div pol gain rate) v .i0 → s.Gives 0 1 rx → exec (.init ch div pol gain rate) s =
      .next { s.exchanged [commByte s.cfg.codes.sel.clock ch 0] rx with
        frame := .framed s.cfg.codes.sel.clock ch 0, seq := some ⟨.init ch div pol gain rate, v, .i1⟩ }) ∧
    (∀ rx, s.At (.init ch div pol gain rate) v .i1 → s.Gives 0 1 rx → exec (.init ch div pol gain rate) s =
      .next { s.exchanged [clockByte 0 div rate] rx with
        frame := .idle, seq := some ⟨.init ch div pol gain rate, v, .i2⟩ }) ∧
    (∀ rx, s.At (.init ch div pol gain rate) v .i2 → s.Gives 0 1 rx → exec (.init ch div pol gain rate) s =
      .next { s.exchanged [commByte s.cfg.codes.sel.setup ch 0] rx with
        frame := .framed s.cfg.codes.sel.setup ch 0, seq := some ⟨.init ch div pol gain rate, v, .i3⟩ }) ∧
    (∀ rx, s.At (.init ch div pol gain rate) v .i3 → s.Gives 0 1 rx → exec (.init ch div pol gain rate) s =
      .next { s.exchanged [setupByte s.cfg.codes.mode.selfCal gain pol 0 0] rx with
        frame := .idle, chan := s.chan.set ch .calibrating, seq := some ⟨.init ch div pol gain rate, v, .i4y0⟩ }) ∧
    (∀ rx, s.At (.init ch div pol gain rate) v .i4y0 → s.Gives 0 1 rx → exec (.init ch div pol gain rate) s =
      .next { s.exchanged [commByte s.cfg.codes.sel.comm ch 1] rx with
        frame := .framed s.cfg.codes.sel.comm ch 1, seq := some ⟨.init ch div pol gain rate, v, .i4y1⟩ }) ∧
    (∀ b, s.At (.init ch div pol gain rate) v .i4y1 → s.Gives 0 1 [b] → exec (.init ch div pol gain rate) s =
      .next { s.exchanged [s.cfg.dummyTx] [b] with
        frame := .idle, seq := some ⟨.init ch div pol gain rate, v, .i5 (!b.getLsbD 7)⟩ }) ∧
    (s.At (.init ch div pol gain rate) v (.i5 true) → exec (.init ch div pol gain rate) s =
      .next { s with seq := some ⟨.init ch div pol gain rate, v, .i6⟩ }) ∧
    (s.At (.init ch div pol gain rate) v .i6 → exec (.init ch div pol gain rate) s =
      .next { s with
        chan := s.chan.set ch .ready, frame := if v then .unknown else .idle
        rsp := some ⟨.none, 0⟩, life := .ready, seq := none })

/-- R145 poll_again, in READ, READV and INIT: the unready poll is counted; at POLL_BOUND the command stops with ProtocolTimeout,
below it (always, with INF) it polls again. -/
def Obligations.UnreadyPollCountsAndLoops : Prop :=
  ∀ (s : State) (i : Instr) (v : Bool) (l p : Label),
    ((∃ ch, i = .read ch) ∧ l = .l1 false ∧ p = .l0y0) ∨ ((∃ ch r, i = .readv ch r) ∧ l = .l1 false ∧ p = .l0y0) ∨
      ((∃ ch d o g r, i = .init ch d o g r) ∧ l = .i5 false ∧ p = .i4y0) →
    s.At i v l →
    ((∃ n, s.cfg.pollBound = some n ∧ n ≤ s.pollCount + 1) → exec i s = .next { s with
      pollCount := s.pollCount + 1, frame := if v then .unknown else .idle
      rsp := some ⟨.protocolTimeout, 0⟩, life := .ready, seq := none }) ∧
    ((∀ n, s.cfg.pollBound = some n → s.pollCount + 1 < n) →
      exec i s = .next { s with pollCount := s.pollCount + 1, seq := some ⟨i, v, p⟩ })

/-! ## Whole commands, from a presented word to the response -/

/-- R170, R76: RESET from every value of `frame` and `chan` makes exactly 100 transfers of one byte 0xFF and nothing else. -/
def Obligations.ResetSendsHundredSyncBytes : Prop :=
  ∀ (s : State) (rest : List Word32) (r : Nat → Byte), s.life = .ready → s.cmds = encode .reset :: rest →
    (∀ j < 100, s.Gives j 1 [r j]) →
    ∃ t, stepN 104 s = .next t ∧ t.trace = s.trace ++ (List.range 100).map (fun j => ⟨[0xFF], [r j]⟩) ∧
      t.frame = .idle ∧ (∀ ch, t.chan.get ch = .uninit) ∧ t.rsp = some ⟨.none, 0⟩ ∧ t.life = .ready ∧ t.seq = none ∧
      t.cs = 1 ∧ t.fault = s.fault ∧ t.cfg = s.cfg ∧ t.cmds = rest ∧ t.chip.pending = .expectComm

/-- R141: READ with `k` unready polls before the ready one (fewer than POLL_BOUND) makes `k + 1` polls, frames the data register,
reads it and responds with the raw word: `2(k + 1) + 2` events. -/
def Obligations.ReadReturnsTheWordOnceReady : Prop :=
  ∀ (s : State) (ch : Chan) (rest : List Word32) (k : Nat) (a st : Nat → Byte) (c d0 d1 : Byte),
    s.life = .ready → s.frame = .idle → ch.toNat < s.cfg.numChannels.toNat → s.cmds = encode (.read ch) :: rest →
    (∀ n, s.cfg.pollBound = some n → k < n) → s.GivesPolls 0 (k + 1) a st →
    (∀ j < k, (st j).getLsbD 7 = true) → (st k).getLsbD 7 = false →
    s.Gives (2 * k + 2) 1 [c] → s.Gives (2 * k + 3) 2 [d0, d1] →
    ∃ t, stepN (3 * k + 6) s = .next t ∧
      t.trace = s.trace ++ pollEvents s.cfg ch a st (k + 1) ++
        [⟨[commByte s.cfg.codes.sel.data ch 1], [c]⟩, ⟨[s.cfg.dummyTx, s.cfg.dummyTx], [d0, d1]⟩] ∧
      t.rsp = some ⟨.none, BitVec.ofNat 32 (d0.toNat * 256 + d1.toNat)⟩ ∧ t.frame = .idle ∧ t.life = .ready ∧
      t.seq = none ∧ t.cs = 1 ∧ t.fault = s.fault ∧ t.chan = s.chan ∧ t.cfg = s.cfg ∧ t.cmds = rest

/-- R142: READV makes the transfers of READ and responds with `(raw * reference) / 65535`. -/
def Obligations.ReadvScalesTheWordOnceReady : Prop :=
  ∀ (s : State) (ch : Chan) (reference : Word16) (rest : List Word32) (k : Nat) (a st : Nat → Byte) (c d0 d1 : Byte),
    s.life = .ready → s.frame = .idle → ch.toNat < s.cfg.numChannels.toNat → s.cmds = encode (.readv ch reference) :: rest →
    (∀ n, s.cfg.pollBound = some n → k < n) → s.GivesPolls 0 (k + 1) a st →
    (∀ j < k, (st j).getLsbD 7 = true) → (st k).getLsbD 7 = false →
    s.Gives (2 * k + 2) 1 [c] → s.Gives (2 * k + 3) 2 [d0, d1] →
    ∃ t, stepN (3 * k + 7) s = .next t ∧
      t.trace = s.trace ++ pollEvents s.cfg ch a st (k + 1) ++
        [⟨[commByte s.cfg.codes.sel.data ch 1], [c]⟩, ⟨[s.cfg.dummyTx, s.cfg.dummyTx], [d0, d1]⟩] ∧
      t.rsp = some ⟨.none, BitVec.ofNat 32 ((d0.toNat * 256 + d1.toNat) * reference.toNat / 65535)⟩ ∧
      t.frame = .idle ∧ t.life = .ready ∧ t.seq = none ∧ t.cs = 1 ∧ t.fault = s.fault ∧ t.chan = s.chan ∧
      t.cfg = s.cfg ∧ t.cmds = rest

/-- R171, R172: INIT with `k` unready polls before the ready one sends the clock byte and the setup byte, each framed, then polls:
`4 + 2(k + 1)` events; the channel ends READY, the others as they were. -/
def Obligations.InitBringsChannelUpOnceReady : Prop :=
  ∀ (s : State) (ch : Chan) (div pol : Bit) (gain rate : BitVec 3) (rest : List Word32) (k : Nat) (a st : Nat → Byte)
      (r0 r1 r2 r3 : Byte),
    s.life = .ready → s.frame = .idle → ch.toNat < s.cfg.numChannels.toNat →
    s.cmds = encode (.init ch div pol gain rate) :: rest → (∀ n, s.cfg.pollBound = some n → k < n) →
    s.Gives 0 1 [r0] → s.Gives 1 1 [r1] → s.Gives 2 1 [r2] → s.Gives 3 1 [r3] → s.GivesPolls 4 (k + 1) a st →
    (∀ j < k, (st j).getLsbD 7 = true) → (st k).getLsbD 7 = false →
    ∃ t, stepN (3 * k + 9) s = .next t ∧
      t.trace = s.trace ++ [⟨[commByte s.cfg.codes.sel.clock ch 0], [r0]⟩, ⟨[clockByte 0 div rate], [r1]⟩,
        ⟨[commByte s.cfg.codes.sel.setup ch 0], [r2]⟩,
        ⟨[setupByte s.cfg.codes.mode.selfCal gain pol 0 0], [r3]⟩] ++ pollEvents s.cfg ch a st (k + 1) ∧
      t.chan.get ch = .ready ∧ (∀ ch', ch' ≠ ch → t.chan.get ch' = s.chan.get ch') ∧ t.rsp = some ⟨.none, 0⟩ ∧
      t.frame = .idle ∧ t.life = .ready ∧ t.seq = none ∧ t.cs = 1 ∧ t.fault = s.fault ∧ t.cfg = s.cfg ∧ t.cmds = rest

/-- R196: with POLL_BOUND = INF, as long as every poll finds the chip not ready, READ, READV and INIT stay BUSY at their poll
and write no response; the trace grows by two events a poll.  (Stated from the poll, for `n` polls, every `n`.) -/
def Obligations.UnreadyChipHangsTheCommand : Prop :=
  ∀ (s : State) (i : Instr) (ch : Chan) (v : Bool) (p : Label) (n : Nat) (a st : Nat → Byte),
    (i = .read ch ∧ p = .l0y0) ∨ ((∃ r, i = .readv ch r) ∧ p = .l0y0) ∨
      ((∃ d o g r, i = .init ch d o g r) ∧ p = .i4y0) →
    s.At i v p → s.cfg.pollBound = none → s.GivesPolls 0 n a st → (∀ j < n, (st j).getLsbD 7 = true) →
    ∃ t, stepN (3 * n) s = .next t ∧ t.At i v p ∧ t.rsp = s.rsp ∧ t.trace = s.trace ++ pollEvents s.cfg ch a st n ∧
      t.chan = s.chan ∧ t.fault = s.fault ∧ t.pollCount = s.pollCount + n ∧ t.cmds = s.cmds

/-- R192: with POLL_BOUND = n, a READ, READV or INIT whose first n polls are unready stops with ProtocolTimeout after exactly
those polls: `life` READY, `frame` IDLE, `fault` unchanged, no data read, and for INIT the channel still as it was (CALIBRATING). -/
def Obligations.BoundedPollTimesOut : Prop :=
  ∀ (s : State) (i : Instr) (ch : Chan) (p : Label) (n : Nat) (a st : Nat → Byte),
    (i = .read ch ∧ p = .l0y0) ∨ ((∃ r, i = .readv ch r) ∧ p = .l0y0) ∨
      ((∃ d o g r, i = .init ch d o g r) ∧ p = .i4y0) →
    s.At i false p → s.pollCount = 0 → s.cfg.pollBound = some n → 1 ≤ n → s.GivesPolls 0 n a st →
    (∀ j < n, (st j).getLsbD 7 = true) →
    ∃ t, stepN (3 * n) s = .next t ∧ t.rsp = some ⟨.protocolTimeout, 0⟩ ∧ t.life = .ready ∧ t.seq = none ∧
      t.frame = .idle ∧ t.fault = s.fault ∧ t.chan = s.chan ∧ t.cmds = s.cmds ∧
      t.trace = s.trace ++ pollEvents s.cfg ch a st n

/-- R92 for READ: with `k` unready polls, READ and the host's own `DRDY` until ready, `SELECT DATA, ch, R`, `RDCONV` end in the
same state but for `poll_count`: the same wire trace, response and frame. -/
def Obligations.ReadEqualsItsExpansion : Prop :=
  ∀ (s : State) (ch : Chan) (k : Nat) (a st : Nat → Byte) (c d0 d1 : Byte),
    s.life = .ready → s.frame = .idle → ch.toNat < s.cfg.numChannels.toNat →
    (∀ n, s.cfg.pollBound = some n → k < n) → s.GivesPolls 0 (k + 1) a st →
    (∀ j < k, (st j).getLsbD 7 = true) → (st k).getLsbD 7 = false →
    s.Gives (2 * k + 2) 1 [c] → s.Gives (2 * k + 3) 2 [d0, d1] →
    ∃ t u, stepN (3 * k + 6) { s with cmds := [encode (.read ch)] } = .next t ∧
      stepN (3 * (k + 1) + 4) { s with cmds := List.replicate (k + 1) (encode (.drdy ch)) ++
        [encode (.select s.cfg.codes.sel.data ch 1), encode .rdconv] } = .next u ∧
      u = { t with pollCount := 0 }

/-- R92 for INIT: `SELECT CLOCK, ch, W`; `WRCLK 0, div, rate`; `SELECT SETUP, ch, W`; `WRSETUP MODE_SELF_CAL, gain, pol, 0, 0`; `DRDY ch`
until ready, leave the same wire trace, frame, chip-select and chip. -/
def Obligations.InitEqualsItsExpansion : Prop :=
  ∀ (s : State) (ch : Chan) (div pol : Bit) (gain rate : BitVec 3) (k : Nat) (a st : Nat → Byte) (r0 r1 r2 r3 : Byte),
    s.life = .ready → s.frame = .idle → ch.toNat < s.cfg.numChannels.toNat → (∀ n, s.cfg.pollBound = some n → k < n) →
    s.Gives 0 1 [r0] → s.Gives 1 1 [r1] → s.Gives 2 1 [r2] → s.Gives 3 1 [r3] → s.GivesPolls 4 (k + 1) a st →
    (∀ j < k, (st j).getLsbD 7 = true) → (st k).getLsbD 7 = false →
    ∃ t u, stepN (3 * k + 9) { s with cmds := [encode (.init ch div pol gain rate)] } = .next t ∧
      stepN (3 * (k + 1) + 8) { s with cmds :=
          ([encode (.select s.cfg.codes.sel.clock ch 0), encode (.wrclk 0 div rate),
            encode (.select s.cfg.codes.sel.setup ch 0), encode (.wrsetup s.cfg.codes.mode.selfCal gain pol 0 0)] ++
          List.replicate (k + 1) (encode (.drdy ch))) } = .next u ∧
      u.trace = t.trace ∧ u.frame = t.frame ∧ u.cs = t.cs ∧ u.chip = t.chip ∧ u.life = t.life

/-! ## Faults -/

/-- R191, R198: at every label where a command makes a transfer (or CONSTRUCT drives chip-select), a transport that fails ends the
command there: `fault`, `life`, `rsp` as given; `trace`, `frame`, `chan` and everything else of the block as they were; `cs` and
the chip are not said. -/
def Obligations.TransportFaultAborts : Prop :=
  ∀ (s : State) (q : MicroSeq), s.life = .busy → s.seq = some q → q.label.belongs q.cmd = true → q.label.acts = true →
    s.answer 0 = .fail →
    ∃ t, exec q.cmd s = .next t ∧ t.fault = .transportFault ∧ t.life = .aborted ∧ t.rsp = some ⟨.transportFault, 0⟩ ∧
      t.seq = none ∧ t.trace = s.trace ∧ t.frame = s.frame ∧ t.chan = s.chan ∧ t.pollCount = s.pollCount ∧
      t.cfg = s.cfg ∧ t.cmds = s.cmds

/-- R27: `fault` is never cleared, and only a failing transfer or chip-select drive of a running command sets it; nothing else does,
ProtocolTimeout and refusals included. -/
def Obligations.OnlyTransportFailureSetsFault : Prop :=
  ∀ s t : State, step s = .next t →
    (s.fault = .transportFault → t.fault = .transportFault) ∧
    (s.fault = .none → (t.fault = .transportFault ↔
      s.life = .busy ∧ s.answer 0 = .fail ∧ ∃ q, s.seq = some q ∧ q.label.acts = true))

/-- R21, R191: "Nothing leaves ABORTED": the block makes no transfer, and every word, legal or not, is refused with Aborted.
That with no word left nothing changes is the model's choice (log entry 10, DESIGN CHOICE), as is that a refusal is a next state
(log entry 3, DESIGN CHOICE). -/
def Obligations.AbortedIsForEver : Prop :=
  ∀ s : State, s.life = .aborted →
    (∀ w rest, s.cmds = w :: rest → step s = .next { s with cmds := rest, rsp := some ⟨.aborted, 0⟩ }) ∧
    (s.cmds = [] → step s = .next s)

/-- R190: the codes. -/
def Obligations.OutcomeCodes : Prop :=
  errCode .none = 0 ∧ errCode .transportFault = 1 ∧ errCode .protocolTimeout = 2 ∧ errCode .framingViolation = 3 ∧
  errCode .illegalCommand = 4 ∧ errCode .illegalChannel = 5 ∧ errCode .notConstructed = 6 ∧
  errCode .alreadyConstructed = 7 ∧ errCode .aborted = 8

/-- R93: a 4-bit code and 32 bits of data; a word is zero-extended, ready is 1 and not ready 0.  That the code stands above the
data is the model's choice (log entry 24, DESIGN CHOICE). -/
def Obligations.ResponsePortLayout : Prop :=
  (∀ r : Rsp, (rspPort r).extractLsb' 32 4 = errCode r.err ∧ (rspPort r).extractLsb' 0 32 = r.data) ∧
  (∀ raw : Word16, (rawData raw).toNat = raw.toNat) ∧ readyData true = 1 ∧ readyData false = 0 ∧ nothingData = 0

/-! ## Whole-machine rules -/

/-- R21: the transitions of `life`, and no others. -/
def Obligations.LifeTransitions : Prop :=
  ∀ s t : State, step s = .next t → t.life ≠ s.life →
    (s.life = .unbuilt ∧ t.life = .busy ∧ ∃ q, t.seq = some q ∧ q.cmd = .construct) ∨
    (s.life = .ready ∧ t.life = .busy ∧ ∃ q, t.seq = some q ∧ q.cmd ≠ .construct) ∨
    (s.life = .busy ∧ t.life = .ready) ∨
    (s.life = .busy ∧ t.life = .aborted ∧ t.fault = .transportFault)

/-- R28, R59, R5: a step appends at most one event to `trace` and changes no other; it appends one exactly when the running
command makes a transfer that completes; the event moves as many bytes each way, one or two. -/
def Obligations.TraceGrowsByCompletedTransfers : Prop :=
  ∀ s t : State, step s = .next t →
    (t.trace = s.trace ∨ ∃ e, t.trace = s.trace ++ [e] ∧ e.rx.length = e.tx.length ∧ (e.tx.length = 1 ∨ e.tx.length = 2)) ∧
    (t.trace ≠ s.trace ↔ s.life = .busy ∧ s.answer 0 ≠ .fail ∧
      ∃ q, s.seq = some q ∧ q.label.acts = true ∧ q.label ≠ .k0)

/-- R52, R55, R65: outside RESET, every transfer of a command that runs in order is either, with `frame` IDLE, one COMM byte, which
leaves `frame` at the access it names; or, with `frame` at an access, that register's data phase, of the register's width, which
leaves `frame` IDLE. -/
def Obligations.EveryTransferIsFramed : Prop :=
  ∀ (s t : State) (q : MicroSeq), s.Inv → step s = .next t → s.seq = some q → q.violated = false → q.cmd ≠ .reset →
    t.trace ≠ s.trace →
    (s.frame = .idle ∧ ∃ sel ch dir r, t.trace = s.trace ++ [⟨[commByte sel ch dir], [r]⟩] ∧ t.frame = .framed sel ch dir) ∨
    (∃ sel ch dir reg e, s.frame = .framed sel ch dir ∧ regOf s.cfg.codes.sel sel = some reg ∧
      t.trace = s.trace ++ [e] ∧ regWidth reg = some e.tx.length ∧ t.frame = .idle)

/-- R22: no step but one that drives chip-select (CONSTRUCT's, a transfer's) changes `cs`; one that completes leaves it 1. -/
def Obligations.OnlyTransportActsMoveChipSelect : Prop :=
  ∀ s t : State, step s = .next t → t.cs ≠ s.cs →
    (s.life = .busy ∧ ∃ q, s.seq = some q ∧ q.label.acts = true) ∧ (t.life ≠ .aborted → t.cs = 1)

/-- R40, R172: only these events change the ghost state of a channel: CONSTRUCT and RESET completing (to UNINIT), an INIT of that
channel sending its setup byte (to CALIBRATING), a poll of that INIT finding the chip ready (to READY). -/
def Obligations.OnlyInitAndResetMoveChannelState : Prop :=
  ∀ (s t : State) (ch : Chan), step s = .next t → t.chan.get ch ≠ s.chan.get ch →
    ∃ q, s.life = .busy ∧ s.seq = some q ∧
      ((q.cmd = .construct ∧ q.label = .k1 ∧ t.chan.get ch = .uninit) ∨
        (q.cmd = .reset ∧ q.label = .z2 ∧ t.chan.get ch = .uninit) ∨
        (∃ d p g r, q.cmd = .init ch d p g r ∧
          ((q.label = .i3 ∧ t.chan.get ch = .calibrating) ∨ (q.label = .i6 ∧ t.chan.get ch = .ready))))

/-- R13, R28, R40, R64, R193: the block never reads `trace`, `chan` or the chip: two states that differ only there step alike, append
the SAME events and stay so; and the ghost `chan` after the step depends on `chan` before it, not on `trace` or the chip. -/
def Obligations.BlockNeverReadsTraceChanOrChip : Prop :=
  ∀ s t : State, step s = .next t → ∃ events, t.trace = s.trace ++ events ∧
    ∀ chan : PerChan ChanState, ∃ chan', ∀ (tr : List XferEvent) (chip : Chip), ∃ chip',
      step (s.withUnread tr chan chip) = .next (t.withUnread (tr ++ events) chan' chip')

/-- R6: no step changes a parameter. -/
def Obligations.ParametersNeverChange : Prop :=
  ∀ s t : State, step s = .next t → t.cfg = s.cfg

/-- R103, R225, R227: under STRICT_FRAMING a SELECT, DRDY, READ, READV or INIT presented while an access is framed is refused
with FramingViolation; RESET is accepted all the same. -/
def Obligations.StrictFramingRefusesSecondFraming : Prop :=
  ∀ (s : State) (sel : Sel) (ch : Chan) (dir : Bit) (i : Instr), s.life = .ready → s.frame = .framed sel ch dir →
    s.cfg.strictFraming = true → (∀ c, i.channel? = some c → c.toNat < s.cfg.numChannels.toNat) →
    ((∃ l c d, i = .select l c d) ∨ (∃ c, i = .drdy c) ∨ (∃ c, i = .read c) ∨ (∃ c r, i = .readv c r) ∨
      (∃ c d p g r, i = .init c d p g r) → exec i s = .next { s with rsp := some ⟨.framingViolation, 0⟩ }) ∧
    (i = .reset → exec i s = .next { s with life := .busy, seq := some ⟨.reset, false, .z0⟩, pollCount := 0 })

/-- R103, with STRICT_FRAMING = false: a command that runs out of order takes the steps it takes in order (the same transfers, response and
everything else), but for `frame`; it ends with `frame` UNKNOWN; and from UNKNOWN every command but RESET runs out of order. -/
def Obligations.OutOfOrderCommandRunsAsWritten : Prop :=
  (∀ (s t : State) (i : Instr) (l : Label), s.At i false l → step s = .next t →
    ∃ f, step { s with seq := some ⟨i, true, l⟩ } =
      .next { t with frame := f, seq := t.seq.map fun q => { q with violated := true } }) ∧
  (∀ (s t : State) (i : Instr) (l : Label), i ≠ .construct → i ≠ .reset → s.At i true l → step s = .next t →
    t.life = .ready → t.frame = .unknown) ∧
  (∀ (s : State) (i : Instr), s.life = .ready → s.frame = .unknown → s.cfg.strictFraming = false →
    i ≠ .construct → i ≠ .reset → (∀ ch, i.channel? = some ch → ch.toNat < s.cfg.numChannels.toNat) →
    exec i s = .next { s with life := .busy, seq := some ⟨i, true, firstLabel i⟩, pollCount := 0 })

/-- R41, with the default CODES (R77 to R83, the spec's general knowledge, D4): the default ChannelConfig is `div = 0, pol = 0, gain = 0,
rate = 1`, so INIT of AIN1 with it is `INIT 0, 0, 0, 0, 1`; every map of the default CODES is an enumeration. -/
def Obligations.DefaultCodesAndChannelConfig : Prop :=
  initCommand defaultCodes .ain1 defaultChannelConfig = .init 0 0 0 0 1 ∧
  defaultConfig.wf = true ∧
  [RegName.comm, .setup, .clock, .data, .test, .noop, .offset, .gain].map (selOf defaultCodes.sel) =
    [0, 1, 2, 3, 4, 5, 6, 7] ∧
  [ChanName.ain1, .ain2, .third, .fourth].map (chanOf defaultCodes.chn) = [0, 1, 2, 3] ∧
  [RateName.hz20, .hz25, .hz100, .hz200, .hz50, .hz60, .hz250, .hz500].map (rateOf defaultCodes.rate) =
    [0, 1, 2, 3, 4, 5, 6, 7] ∧
  [ModeName.normal, .selfCal, .zeroCal, .fullCal].map (modeOf defaultCodes.mode) = [0, 1, 2, 3] ∧
  [GainName.x1, .x2, .x4, .x8, .x16, .x32, .x64, .x128].map (gainOf defaultCodes.gain) = [0, 1, 2, 3, 4, 5, 6, 7] ∧
  [PolName.bipolar, .unipolar].map (polOf defaultCodes.pol) = [0, 1] ∧
  [DivName.x1, .x2].map (divOf defaultCodes.div) = [0, 1]

/-! ## Arithmetic -/

/-- R144: the exact product, truncating division by 65535; bounds, monotony, end points; the response loses no bit of it. -/
def Obligations.ScalingLaw : Prop :=
  (∀ raw reference : Word16, scale raw reference = raw.toNat * reference.toNat / 65535 ∧
    scale raw reference ≤ reference.toNat ∧ raw.toNat * reference.toNat < 2 ^ 32 ∧
    (voltData raw reference).toNat = scale raw reference) ∧
  (∀ raw raw' reference : Word16, raw.toNat ≤ raw'.toNat → scale raw reference ≤ scale raw' reference) ∧
  (∀ raw reference reference' : Word16, reference.toNat ≤ reference'.toNat → scale raw reference ≤ scale raw reference') ∧
  (∀ reference : Word16, scale 0 reference = 0 ∧ scale 65535 reference = reference.toNat)

/-! ## The chip, as far as the spec describes it -/

/-- R65: a COMM byte received when the chip expects one sets its pending operation; the clock, setup, status and data phases that
follow bring it back to expecting one; the register written takes the byte for the framed channel (R9, R120, R121), a status byte
carries DRDY (R66), a data word is the Data register (R34); a self-calibration write makes DRDY read not-ready (R68).
That it does so whatever bytes are sent in the data phase is the model's choice (log entry 25, DESIGN CHOICE). -/
def Obligations.ChipFollowsItsContract : Prop :=
  ∀ (c : Chip) (codes : Codes) (n : Nat), codes.wf = true →
    (∀ (sel : Sel) (ch : Chan) (dir : Bit) (rx : List Byte), c.pending = .expectComm →
      (c.transfer codes n [commByte sel ch dir] rx).pending = .op sel ch dir ∧
      (c.transfer codes n [commByte sel ch dir] rx).comm = commByte sel ch dir) ∧
    (∀ (ch : Chan) (b r : Byte), c.pending = .op codes.sel.clock ch 0 →
      (c.transfer codes n [b] [r]).pending = .expectComm ∧ ((c.transfer codes n [b] [r]).regs.get ch).clock = b) ∧
    (∀ (ch : Chan) (b r : Byte), c.pending = .op codes.sel.setup ch 0 →
      (c.transfer codes n [b] [r]).pending = .expectComm ∧ ((c.transfer codes n [b] [r]).regs.get ch).setup = b ∧
      (b.extractLsb' 6 2 = codes.mode.selfCal → (c.transfer codes n [b] [r]).drdy = 1)) ∧
    (∀ (ch : Chan) (b r : Byte), c.pending = .op codes.sel.comm ch 1 →
      (c.transfer codes n [b] [r]).pending = .expectComm ∧ (c.transfer codes n [b] [r]).drdy = r.extractLsb' 7 1) ∧
    (∀ (ch : Chan) (b b' r0 r1 : Byte), c.pending = .op codes.sel.data ch 1 →
      (c.transfer codes n [b, b'] [r0, r1]).pending = .expectComm ∧
      ((c.transfer codes n [b, b'] [r0, r1]).regs.get ch).data = BitVec.ofNat 16 (r0.toNat * 256 + r1.toNat))
end

