-- ==== Sys2Proof/Laws/PerChan.lean ====
section
/-! SUPPORT. Reading and writing one value per channel code, and the chip's bookkeeping under a transfer. -/

namespace Sys2Proof.Machine

@[simp] theorem PerChan.get_set_same {α : Type} (v : PerChan α) (ch : Chan) (a : α) : (v.set ch a).get ch = a := by
  revert ch; intro ch
  by_cases h0 : ch = 0#2
  · simp [PerChan.get, PerChan.set, h0]
  by_cases h1 : ch = 1#2
  · simp [PerChan.get, PerChan.set, h1]
  by_cases h2 : ch = 2#2
  · simp [PerChan.get, PerChan.set, h2]
  · simp [PerChan.get, PerChan.set, h0, h1, h2]

theorem chan_cases (ch : Chan) : ch = 0#2 ∨ ch = 1#2 ∨ ch = 2#2 ∨ ch = 3#2 := by
  revert ch; decide

theorem PerChan.get_set_other {α : Type} (v : PerChan α) {ch ch' : Chan} (a : α) (h : ch' ≠ ch) :
    (v.set ch a).get ch' = v.get ch' := by
  rcases chan_cases ch with rfl | rfl | rfl | rfl <;> rcases chan_cases ch' with rfl | rfl | rfl | rfl <;>
    first | exact absurd rfl h | rfl

@[simp] theorem PerChan.get_replicate {α : Type} (a : α) (ch : Chan) : (PerChan.replicate a).get ch = a := by
  unfold PerChan.get PerChan.replicate; split_ifs <;> rfl

@[simp] theorem PerChan.get_zipWith {α β γ : Type} (f : α → β → γ) (v : PerChan α) (w : PerChan β) (ch : Chan) :
    (PerChan.zipWith f v w).get ch = f (v.get ch) (w.get ch) := by
  unfold PerChan.get PerChan.zipWith; split_ifs <;> rfl

/-! ## What a transfer does to the chip's pending operation (R65) -/

@[simp] theorem Chip.drift_pending (n : Nat) (c : Chip) : (c.drift n).pending = c.pending := rfl

@[simp] theorem resyncChip_pending (n : Nat) : (resyncChip n).pending = .expectComm := rfl

theorem Chip.transfer_expect {codes : Codes} {n : Nat} {b : Byte} {rx : List Byte} {c : Chip}
    (h : c.pending = .expectComm) : c.transfer codes n [b] rx = (c.drift n).takeComm n b := by
  simp [Chip.transfer, h]

theorem Chip.transfer_op {codes : Codes} {n : Nat} {tx rx : List Byte} {c : Chip} {sel : Sel} {ch : Chan} {dir : Bit}
    (h : c.pending = .op sel ch dir) :
    c.transfer codes n tx rx = (c.drift n).dataPhase codes n sel ch dir tx rx := by
  simp [Chip.transfer, h]

theorem Chip.takeComm_pending {n : Nat} {b : Byte} {c : Chip} (h : isCommByte b = true) :
    (c.takeComm n b).pending = .op (commSel b) (commChan b) (commDir b) := by
  simp [Chip.takeComm, h]

/-- R65 for the byte SELECT and every framing transfer sends. -/
theorem Chip.takeComm_commByte {n : Nat} {c : Chip} (sel : Sel) (ch : Chan) (dir : Bit) :
    (c.takeComm n (commByte sel ch dir)).pending = .op sel ch dir := by
  have h : ∀ (sel : Sel) (ch : Chan) (dir : Bit), isCommByte (commByte sel ch dir) = true ∧
      commSel (commByte sel ch dir) = sel ∧ commChan (commByte sel ch dir) = ch ∧
      commDir (commByte sel ch dir) = dir := by decide
  obtain ⟨h1, h2, h3, h4⟩ := h sel ch dir
  rw [Chip.takeComm_pending h1, h2, h3, h4]

/-! ## Selector codes (R77, R84) -/

/-- With distinct codes, the register a name's code names is that name. -/
theorem regOf_selOf {c : SelCodes} (h : c.toList.Nodup) (r : RegName) : regOf c (selOf c r) = some r := by
  simp only [SelCodes.toList, List.nodup_cons, List.mem_cons, List.not_mem_nil, or_false, not_or, List.nodup_nil,
    and_true, not_false_eq_true] at h
  obtain ⟨⟨a1, a2, a3, a4, a5, a6, a7⟩, ⟨b2, b3, b4, b5, b6, b7⟩, ⟨c3, c4, c5, c6, c7⟩, ⟨d4, d5, d6, d7⟩,
    ⟨e5, e6, e7⟩, ⟨f6, f7⟩, g7⟩ := h
  cases r <;> simp [regOf, selOf, List.find?, *]

theorem Codes.sel_nodup {c : Codes} (h : c.wf = true) : c.sel.toList.Nodup := by
  simp only [Codes.wf, Bool.and_eq_true, decide_eq_true_eq] at h
  exact h.1.1.1.1.1.1

theorem Config.codes_wf {c : Config} (h : c.wf = true) : c.codes.wf = true := by
  simp only [Config.wf, Bool.and_eq_true] at h
  exact h.1

theorem Config.bound_pos {c : Config} (h : c.wf = true) {n : Nat} (hn : c.pollBound = some n) : 1 ≤ n := by
  simp only [Config.wf, Bool.and_eq_true, hn, Option.all_some, decide_eq_true_eq] at h
  exact h.2

end Sys2Proof.Machine
end

