-- ==== Sys2Proof/Laws/State.lean ====
section
/-! SUPPORT. One lemma per field per named update of the state, each true by rfl, so that no proof unfolds a record update. -/

namespace Sys2Proof.Machine

/-! ## `transportFault` -/

@[simp] theorem State.transportFault_life (s : State) : s.transportFault.life = .aborted := rfl
@[simp] theorem State.transportFault_cs (s : State) : s.transportFault.cs = (Config.freeWord s.draws 3).extractLsb' 0 1 := rfl
@[simp] theorem State.transportFault_frame (s : State) : s.transportFault.frame = s.frame := rfl
@[simp] theorem State.transportFault_seq (s : State) : s.transportFault.seq = none := rfl
@[simp] theorem State.transportFault_pollCount (s : State) : s.transportFault.pollCount = s.pollCount := rfl
@[simp] theorem State.transportFault_rsp (s : State) : s.transportFault.rsp = some ⟨.transportFault, 0⟩ := rfl
@[simp] theorem State.transportFault_fault (s : State) : s.transportFault.fault = .transportFault := rfl
@[simp] theorem State.transportFault_trace (s : State) : s.transportFault.trace = s.trace := rfl
@[simp] theorem State.transportFault_chan (s : State) : s.transportFault.chan = s.chan := rfl
@[simp] theorem State.transportFault_chip (s : State) : s.transportFault.chip = freeChip s.draws := rfl
@[simp] theorem State.transportFault_cfg (s : State) : s.transportFault.cfg = s.cfg := rfl
@[simp] theorem State.transportFault_cmds (s : State) : s.transportFault.cmds = s.cmds := rfl
@[simp] theorem State.transportFault_script (s : State) : s.transportFault.script = s.script.tail := rfl
@[simp] theorem State.transportFault_draws (s : State) : s.transportFault.draws = s.draws + 1 := rfl

/-! ## `exchanged` -/

@[simp] theorem State.exchanged_life (s : State) (tx rx : List Byte) : (s.exchanged tx rx).life = s.life := rfl
@[simp] theorem State.exchanged_cs (s : State) (tx rx : List Byte) : (s.exchanged tx rx).cs = 1 := rfl
@[simp] theorem State.exchanged_frame (s : State) (tx rx : List Byte) : (s.exchanged tx rx).frame = s.frame := rfl
@[simp] theorem State.exchanged_seq (s : State) (tx rx : List Byte) : (s.exchanged tx rx).seq = s.seq := rfl
@[simp] theorem State.exchanged_pollCount (s : State) (tx rx : List Byte) : (s.exchanged tx rx).pollCount = s.pollCount := rfl
@[simp] theorem State.exchanged_rsp (s : State) (tx rx : List Byte) : (s.exchanged tx rx).rsp = s.rsp := rfl
@[simp] theorem State.exchanged_fault (s : State) (tx rx : List Byte) : (s.exchanged tx rx).fault = s.fault := rfl
@[simp] theorem State.exchanged_trace (s : State) (tx rx : List Byte) : (s.exchanged tx rx).trace = s.trace ++ [⟨tx, rx⟩] := rfl
@[simp] theorem State.exchanged_chan (s : State) (tx rx : List Byte) : (s.exchanged tx rx).chan = s.chan := rfl
@[simp] theorem State.exchanged_chip (s : State) (tx rx : List Byte) : (s.exchanged tx rx).chip = s.chip.transfer s.cfg.codes s.draws tx rx := rfl
@[simp] theorem State.exchanged_cfg (s : State) (tx rx : List Byte) : (s.exchanged tx rx).cfg = s.cfg := rfl
@[simp] theorem State.exchanged_cmds (s : State) (tx rx : List Byte) : (s.exchanged tx rx).cmds = s.cmds := rfl
@[simp] theorem State.exchanged_script (s : State) (tx rx : List Byte) : (s.exchanged tx rx).script = s.script.tail := rfl
@[simp] theorem State.exchanged_draws (s : State) (tx rx : List Byte) : (s.exchanged tx rx).draws = s.draws + 1 := rfl

/-! ## `drew` -/

@[simp] theorem State.drew_life (s : State) : s.drew.life = s.life := rfl
@[simp] theorem State.drew_cs (s : State) : s.drew.cs = s.cs := rfl
@[simp] theorem State.drew_frame (s : State) : s.drew.frame = s.frame := rfl
@[simp] theorem State.drew_seq (s : State) : s.drew.seq = s.seq := rfl
@[simp] theorem State.drew_pollCount (s : State) : s.drew.pollCount = s.pollCount := rfl
@[simp] theorem State.drew_rsp (s : State) : s.drew.rsp = s.rsp := rfl
@[simp] theorem State.drew_fault (s : State) : s.drew.fault = s.fault := rfl
@[simp] theorem State.drew_trace (s : State) : s.drew.trace = s.trace := rfl
@[simp] theorem State.drew_chan (s : State) : s.drew.chan = s.chan := rfl
@[simp] theorem State.drew_chip (s : State) : s.drew.chip = s.chip := rfl
@[simp] theorem State.drew_cfg (s : State) : s.drew.cfg = s.cfg := rfl
@[simp] theorem State.drew_cmds (s : State) : s.drew.cmds = s.cmds := rfl
@[simp] theorem State.drew_script (s : State) : s.drew.script = s.script.tail := rfl
@[simp] theorem State.drew_draws (s : State) : s.drew.draws = s.draws + 1 := rfl

/-! ## `goto` -/

@[simp] theorem State.goto_life (s : State) (q : MicroSeq) (l : Label) : (s.goto q l).life = s.life := rfl
@[simp] theorem State.goto_cs (s : State) (q : MicroSeq) (l : Label) : (s.goto q l).cs = s.cs := rfl
@[simp] theorem State.goto_frame (s : State) (q : MicroSeq) (l : Label) : (s.goto q l).frame = s.frame := rfl
@[simp] theorem State.goto_seq (s : State) (q : MicroSeq) (l : Label) : (s.goto q l).seq = some { q with label := l } := rfl
@[simp] theorem State.goto_pollCount (s : State) (q : MicroSeq) (l : Label) : (s.goto q l).pollCount = s.pollCount := rfl
@[simp] theorem State.goto_rsp (s : State) (q : MicroSeq) (l : Label) : (s.goto q l).rsp = s.rsp := rfl
@[simp] theorem State.goto_fault (s : State) (q : MicroSeq) (l : Label) : (s.goto q l).fault = s.fault := rfl
@[simp] theorem State.goto_trace (s : State) (q : MicroSeq) (l : Label) : (s.goto q l).trace = s.trace := rfl
@[simp] theorem State.goto_chan (s : State) (q : MicroSeq) (l : Label) : (s.goto q l).chan = s.chan := rfl
@[simp] theorem State.goto_chip (s : State) (q : MicroSeq) (l : Label) : (s.goto q l).chip = s.chip := rfl
@[simp] theorem State.goto_cfg (s : State) (q : MicroSeq) (l : Label) : (s.goto q l).cfg = s.cfg := rfl
@[simp] theorem State.goto_cmds (s : State) (q : MicroSeq) (l : Label) : (s.goto q l).cmds = s.cmds := rfl
@[simp] theorem State.goto_script (s : State) (q : MicroSeq) (l : Label) : (s.goto q l).script = s.script := rfl
@[simp] theorem State.goto_draws (s : State) (q : MicroSeq) (l : Label) : (s.goto q l).draws = s.draws := rfl

/-! ## `complete` -/

@[simp] theorem State.complete_life (s : State) (f : Frame) (d : Word32) : (s.complete f d).life = .ready := rfl
@[simp] theorem State.complete_cs (s : State) (f : Frame) (d : Word32) : (s.complete f d).cs = s.cs := rfl
@[simp] theorem State.complete_frame (s : State) (f : Frame) (d : Word32) : (s.complete f d).frame = f := rfl
@[simp] theorem State.complete_seq (s : State) (f : Frame) (d : Word32) : (s.complete f d).seq = none := rfl
@[simp] theorem State.complete_pollCount (s : State) (f : Frame) (d : Word32) : (s.complete f d).pollCount = s.pollCount := rfl
@[simp] theorem State.complete_rsp (s : State) (f : Frame) (d : Word32) : (s.complete f d).rsp = some ⟨.none, d⟩ := rfl
@[simp] theorem State.complete_fault (s : State) (f : Frame) (d : Word32) : (s.complete f d).fault = s.fault := rfl
@[simp] theorem State.complete_trace (s : State) (f : Frame) (d : Word32) : (s.complete f d).trace = s.trace := rfl
@[simp] theorem State.complete_chan (s : State) (f : Frame) (d : Word32) : (s.complete f d).chan = s.chan := rfl
@[simp] theorem State.complete_chip (s : State) (f : Frame) (d : Word32) : (s.complete f d).chip = s.chip := rfl
@[simp] theorem State.complete_cfg (s : State) (f : Frame) (d : Word32) : (s.complete f d).cfg = s.cfg := rfl
@[simp] theorem State.complete_cmds (s : State) (f : Frame) (d : Word32) : (s.complete f d).cmds = s.cmds := rfl
@[simp] theorem State.complete_script (s : State) (f : Frame) (d : Word32) : (s.complete f d).script = s.script := rfl
@[simp] theorem State.complete_draws (s : State) (f : Frame) (d : Word32) : (s.complete f d).draws = s.draws := rfl

/-! ## `timeout` -/

@[simp] theorem State.timeout_life (s : State) (f : Frame) : (s.timeout f).life = .ready := rfl
@[simp] theorem State.timeout_cs (s : State) (f : Frame) : (s.timeout f).cs = s.cs := rfl
@[simp] theorem State.timeout_frame (s : State) (f : Frame) : (s.timeout f).frame = f := rfl
@[simp] theorem State.timeout_seq (s : State) (f : Frame) : (s.timeout f).seq = none := rfl
@[simp] theorem State.timeout_pollCount (s : State) (f : Frame) : (s.timeout f).pollCount = s.pollCount := rfl
@[simp] theorem State.timeout_rsp (s : State) (f : Frame) : (s.timeout f).rsp = some ⟨.protocolTimeout, 0⟩ := rfl
@[simp] theorem State.timeout_fault (s : State) (f : Frame) : (s.timeout f).fault = s.fault := rfl
@[simp] theorem State.timeout_trace (s : State) (f : Frame) : (s.timeout f).trace = s.trace := rfl
@[simp] theorem State.timeout_chan (s : State) (f : Frame) : (s.timeout f).chan = s.chan := rfl
@[simp] theorem State.timeout_chip (s : State) (f : Frame) : (s.timeout f).chip = s.chip := rfl
@[simp] theorem State.timeout_cfg (s : State) (f : Frame) : (s.timeout f).cfg = s.cfg := rfl
@[simp] theorem State.timeout_cmds (s : State) (f : Frame) : (s.timeout f).cmds = s.cmds := rfl
@[simp] theorem State.timeout_script (s : State) (f : Frame) : (s.timeout f).script = s.script := rfl
@[simp] theorem State.timeout_draws (s : State) (f : Frame) : (s.timeout f).draws = s.draws := rfl

/-! ## `refuse` -/

@[simp] theorem State.refuse_life (s : State) (e : Err) : (s.refuse e).life = s.life := rfl
@[simp] theorem State.refuse_cs (s : State) (e : Err) : (s.refuse e).cs = s.cs := rfl
@[simp] theorem State.refuse_frame (s : State) (e : Err) : (s.refuse e).frame = s.frame := rfl
@[simp] theorem State.refuse_seq (s : State) (e : Err) : (s.refuse e).seq = s.seq := rfl
@[simp] theorem State.refuse_pollCount (s : State) (e : Err) : (s.refuse e).pollCount = s.pollCount := rfl
@[simp] theorem State.refuse_rsp (s : State) (e : Err) : (s.refuse e).rsp = some ⟨e, 0⟩ := rfl
@[simp] theorem State.refuse_fault (s : State) (e : Err) : (s.refuse e).fault = s.fault := rfl
@[simp] theorem State.refuse_trace (s : State) (e : Err) : (s.refuse e).trace = s.trace := rfl
@[simp] theorem State.refuse_chan (s : State) (e : Err) : (s.refuse e).chan = s.chan := rfl
@[simp] theorem State.refuse_chip (s : State) (e : Err) : (s.refuse e).chip = s.chip := rfl
@[simp] theorem State.refuse_cfg (s : State) (e : Err) : (s.refuse e).cfg = s.cfg := rfl
@[simp] theorem State.refuse_cmds (s : State) (e : Err) : (s.refuse e).cmds = s.cmds := rfl
@[simp] theorem State.refuse_script (s : State) (e : Err) : (s.refuse e).script = s.script := rfl
@[simp] theorem State.refuse_draws (s : State) (e : Err) : (s.refuse e).draws = s.draws := rfl

/-! ## `begin` -/

@[simp] theorem State.begin_life (s : State) (i : Instr) : (s.begin i).life = .busy := rfl
@[simp] theorem State.begin_cs (s : State) (i : Instr) : (s.begin i).cs = s.cs := rfl
@[simp] theorem State.begin_frame (s : State) (i : Instr) : (s.begin i).frame = s.frame := rfl
@[simp] theorem State.begin_seq (s : State) (i : Instr) : (s.begin i).seq = some ⟨i, !frameOk s.cfg.codes.sel s.frame i, firstLabel i⟩ := rfl
@[simp] theorem State.begin_pollCount (s : State) (i : Instr) : (s.begin i).pollCount = 0 := rfl
@[simp] theorem State.begin_rsp (s : State) (i : Instr) : (s.begin i).rsp = s.rsp := rfl
@[simp] theorem State.begin_fault (s : State) (i : Instr) : (s.begin i).fault = s.fault := rfl
@[simp] theorem State.begin_trace (s : State) (i : Instr) : (s.begin i).trace = s.trace := rfl
@[simp] theorem State.begin_chan (s : State) (i : Instr) : (s.begin i).chan = s.chan := rfl
@[simp] theorem State.begin_chip (s : State) (i : Instr) : (s.begin i).chip = s.chip := rfl
@[simp] theorem State.begin_cfg (s : State) (i : Instr) : (s.begin i).cfg = s.cfg := rfl
@[simp] theorem State.begin_cmds (s : State) (i : Instr) : (s.begin i).cmds = s.cmds := rfl
@[simp] theorem State.begin_script (s : State) (i : Instr) : (s.begin i).script = s.script := rfl
@[simp] theorem State.begin_draws (s : State) (i : Instr) : (s.begin i).draws = s.draws := rfl

/-! ## `present` -/

@[simp] theorem State.present_life (s : State) (w : Word32) : (s.present w).life = s.life := rfl
@[simp] theorem State.present_cs (s : State) (w : Word32) : (s.present w).cs = s.cs := rfl
@[simp] theorem State.present_frame (s : State) (w : Word32) : (s.present w).frame = s.frame := rfl
@[simp] theorem State.present_seq (s : State) (w : Word32) : (s.present w).seq = s.seq := rfl
@[simp] theorem State.present_pollCount (s : State) (w : Word32) : (s.present w).pollCount = s.pollCount := rfl
@[simp] theorem State.present_rsp (s : State) (w : Word32) : (s.present w).rsp = s.rsp := rfl
@[simp] theorem State.present_fault (s : State) (w : Word32) : (s.present w).fault = s.fault := rfl
@[simp] theorem State.present_trace (s : State) (w : Word32) : (s.present w).trace = s.trace := rfl
@[simp] theorem State.present_chan (s : State) (w : Word32) : (s.present w).chan = s.chan := rfl
@[simp] theorem State.present_chip (s : State) (w : Word32) : (s.present w).chip = s.chip := rfl
@[simp] theorem State.present_cfg (s : State) (w : Word32) : (s.present w).cfg = s.cfg := rfl
@[simp] theorem State.present_cmds (s : State) (w : Word32) : (s.present w).cmds = w :: s.cmds := rfl
@[simp] theorem State.present_script (s : State) (w : Word32) : (s.present w).script = s.script := rfl
@[simp] theorem State.present_draws (s : State) (w : Word32) : (s.present w).draws = s.draws := rfl

/-! ## `withFetchWord` -/

@[simp] theorem State.withFetchWord_life (s : State) (n w : Nat) : (s.withFetchWord n w).life = s.life := rfl
@[simp] theorem State.withFetchWord_cs (s : State) (n w : Nat) : (s.withFetchWord n w).cs = s.cs := rfl
@[simp] theorem State.withFetchWord_frame (s : State) (n w : Nat) : (s.withFetchWord n w).frame = s.frame := rfl
@[simp] theorem State.withFetchWord_seq (s : State) (n w : Nat) : (s.withFetchWord n w).seq = s.seq := rfl
@[simp] theorem State.withFetchWord_pollCount (s : State) (n w : Nat) : (s.withFetchWord n w).pollCount = s.pollCount := rfl
@[simp] theorem State.withFetchWord_rsp (s : State) (n w : Nat) : (s.withFetchWord n w).rsp = s.rsp := rfl
@[simp] theorem State.withFetchWord_fault (s : State) (n w : Nat) : (s.withFetchWord n w).fault = s.fault := rfl
@[simp] theorem State.withFetchWord_trace (s : State) (n w : Nat) : (s.withFetchWord n w).trace = s.trace := rfl
@[simp] theorem State.withFetchWord_chan (s : State) (n w : Nat) : (s.withFetchWord n w).chan = s.chan := rfl
@[simp] theorem State.withFetchWord_chip (s : State) (n w : Nat) : (s.withFetchWord n w).chip = s.chip := rfl
@[simp] theorem State.withFetchWord_cfg (s : State) (n w : Nat) : (s.withFetchWord n w).cfg = s.cfg := rfl
@[simp] theorem State.withFetchWord_cmds (s : State) (n w : Nat) : (s.withFetchWord n w).cmds = BitVec.ofNat 32 (w % 2 ^ n) :: s.cmds := rfl
@[simp] theorem State.withFetchWord_script (s : State) (n w : Nat) : (s.withFetchWord n w).script = s.script := rfl
@[simp] theorem State.withFetchWord_draws (s : State) (n w : Nat) : (s.withFetchWord n w).draws = s.draws := rfl

end Sys2Proof.Machine
end

