-- ==== Sys2Proof/Laws/Ops.lean ====
section
/-! SUPPORT. One spec lemma per shared operation: what an act of the environment, a transfer, acceptance, a command's step and the poll loop can do. -/

namespace Sys2Proof.Machine

/-! ## Answers -/

/-- The answers depend on the script and the draw counter alone. -/
theorem answer_congr {s t : State} (h1 : s.script = t.script) (h2 : s.draws = t.draws) (k : Nat) :
    s.answer k = t.answer k := by
  unfold State.answer; rw [h1, h2]

@[simp] theorem answer_drew (s : State) (k : Nat) : s.drew.answer k = s.answer (k + 1) := by
  unfold State.answer
  rw [State.drew_script, State.drew_draws, List.getElem?_tail, Nat.add_right_comm, Nat.add_assoc]

@[simp] theorem answer_exchanged (s : State) (tx rx : List Byte) (k : Nat) :
    (s.exchanged tx rx).answer k = s.answer (k + 1) := by
  rw [← answer_drew]; exact answer_congr rfl rfl k

@[simp] theorem answer_goto (s : State) (q : MicroSeq) (l : Label) (k : Nat) : (s.goto q l).answer k = s.answer k :=
  answer_congr rfl rfl k

@[simp] theorem answer_begin (s : State) (i : Instr) (k : Nat) : (s.begin i).answer k = s.answer k :=
  answer_congr rfl rfl k

@[simp] theorem answer_complete (s : State) (f : Frame) (d : Word32) (k : Nat) :
    (s.complete f d).answer k = s.answer k :=
  answer_congr rfl rfl k

theorem receive_length (d n : Nat) (bs : List Byte) : (receive d n bs).length = n := by simp [receive]

theorem receive_one (d : Nat) (bs : List Byte) : receive d 1 bs = [bs.getD 0 (freeRxByte d 0)] := rfl

theorem receive_two (d : Nat) (bs : List Byte) :
    receive d 2 bs = [bs.getD 0 (freeRxByte d 0), bs.getD 1 (freeRxByte d 1)] := rfl

/-! ## The transfer -/

theorem xfer_ok {s : State} {bytes : List Byte} (h : s.answer 0 = .ok bytes) (tx : List Byte)
    (k : List Byte → State → State) :
    xfer tx k s = k (receive s.draws tx.length bytes) (s.exchanged tx (receive s.draws tx.length bytes)) := by
  simp only [xfer, h]

theorem xfer_fail {s : State} (h : s.answer 0 = .fail) (tx : List Byte) (k : List Byte → State → State) :
    xfer tx k s = s.transportFault := by
  simp only [xfer, h]

/-- Everything a transfer can do. -/
theorem xfer_cases (tx : List Byte) (k : List Byte → State → State) (s : State) :
    (s.answer 0 = .fail ∧ xfer tx k s = s.transportFault) ∨
    (∃ bytes rx, s.answer 0 = .ok bytes ∧ rx = receive s.draws tx.length bytes ∧ rx.length = tx.length ∧
      xfer tx k s = k rx (s.exchanged tx rx)) := by
  cases h : s.answer 0 with
  | ok bytes => exact .inr ⟨bytes, _, rfl, rfl, receive_length _ _ _, xfer_ok h tx k⟩
  | fail => exact .inl ⟨rfl, xfer_fail h tx k⟩

/-! ## What the transport gives -/

theorem gives_length {s : State} {k n : Nat} {rx : List Byte} (h : s.Gives k n rx) : rx.length = n := by
  obtain ⟨bytes, -, rfl⟩ := h
  exact receive_length _ _ _

theorem gives_congr {s t : State} (h1 : s.script = t.script) (h2 : s.draws = t.draws) (k n : Nat) (rx : List Byte) :
    s.Gives k n rx ↔ t.Gives k n rx := by
  unfold State.Gives; rw [answer_congr h1 h2, h2]

@[simp] theorem gives_exchanged (s : State) (tx rx' : List Byte) (k n : Nat) (rx : List Byte) :
    (s.exchanged tx rx').Gives k n rx ↔ s.Gives (k + 1) n rx := by
  unfold State.Gives; rw [answer_exchanged, State.exchanged_draws, Nat.add_right_comm, Nat.add_assoc]

/-- The transport fails its next act, or completes it with some bytes. -/
theorem fail_or_gives (s : State) (n : Nat) : s.answer 0 = .fail ∨ ∃ rx, s.Gives 0 n rx := by
  cases h : s.answer 0 with
  | ok bytes => exact .inr ⟨_, bytes, h, rfl⟩
  | fail => exact .inl rfl

theorem not_fail_of_gives {s : State} {n : Nat} {rx : List Byte} (h : s.Gives 0 n rx) : s.answer 0 ≠ .fail := by
  obtain ⟨bytes, hb, -⟩ := h
  simp [hb]

theorem gives_one {s : State} {k : Nat} {rx : List Byte} (h : s.Gives k 1 rx) : ∃ b, rx = [b] :=
  List.length_eq_one_iff.mp (gives_length h)

theorem gives_two {s : State} {k : Nat} {rx : List Byte} (h : s.Gives k 2 rx) : ∃ b0 b1, rx = [b0, b1] :=
  List.length_eq_two.mp (gives_length h)

/-- A transfer the transport completes. -/
theorem xfer_gives {s : State} {tx rx : List Byte} (h : s.Gives 0 tx.length rx) (k : List Byte → State → State) :
    xfer tx k s = k rx (s.exchanged tx rx) := by
  obtain ⟨bytes, hb, rfl⟩ := h
  exact xfer_ok hb tx k

/-- Everything a framing transfer can do (R52, R65). -/
theorem frameAccess_cases (sel : Sel) (ch : Chan) (dir : Bit) (next : Label) (q : MicroSeq) (s : State) :
    (s.answer 0 = .fail ∧ frameAccess sel ch dir next q s = s.transportFault) ∨
    (∃ r, s.Gives 0 1 [r] ∧ frameAccess sel ch dir next q s =
      { s.exchanged [commByte sel ch dir] [r] with frame := .framed sel ch dir, seq := some { q with label := next } }) := by
  rcases fail_or_gives s 1 with h | ⟨rx, h⟩
  · exact .inl ⟨h, xfer_fail h _ _⟩
  · obtain ⟨r, rfl⟩ := gives_one h
    exact .inr ⟨r, h, xfer_gives (tx := [_]) h _⟩

/-- Everything the status read of a poll can do (R143 Y1). -/
theorem pollRead_cases (k : Bool → State → State) (s : State) :
    (s.answer 0 = .fail ∧ pollRead k s = s.transportFault) ∨
    (∃ b, s.Gives 0 1 [b] ∧ pollRead k s =
      k (readyByte b) { s.exchanged [s.cfg.dummyTx] [b] with frame := .idle }) := by
  rcases fail_or_gives s 1 with h | ⟨rx, h⟩
  · exact .inl ⟨h, xfer_fail h _ _⟩
  · obtain ⟨b, rfl⟩ := gives_one h
    exact .inr ⟨b, h, xfer_gives (tx := [_]) h _⟩

/-- Everything the read of the data word can do (R140 Q0, R141 L3). -/
theorem readWord_cases (k : Word16 → State → State) (s : State) :
    (s.answer 0 = .fail ∧ readWord k s = s.transportFault) ∨
    (∃ b0 b1, s.Gives 0 2 [b0, b1] ∧ readWord k s =
      k (dataWord b0 b1) (s.exchanged [s.cfg.dummyTx, s.cfg.dummyTx] [b0, b1])) := by
  rcases fail_or_gives s 2 with h | ⟨rx, h⟩
  · exact .inl ⟨h, xfer_fail h _ _⟩
  · obtain ⟨b0, b1, rfl⟩ := gives_two h
    exact .inr ⟨b0, b1, h, xfer_gives (tx := [_, _]) h _⟩

/-- Everything a one-byte write can do (R120, R121, R171). -/
theorem xfer_one_cases (b : Byte) (k : List Byte → State → State) (s : State) :
    (s.answer 0 = .fail ∧ xfer [b] k s = s.transportFault) ∨
    (∃ r, s.Gives 0 1 [r] ∧ xfer [b] k s = k [r] (s.exchanged [b] [r])) := by
  rcases fail_or_gives s 1 with h | ⟨rx, h⟩
  · exact .inl ⟨h, xfer_fail h _ _⟩
  · obtain ⟨r, rfl⟩ := gives_one h
    exact .inr ⟨r, h, xfer_gives (tx := [_]) h _⟩

/-- Everything the step after an unready poll can do (R145). -/
theorem pollAgain_cases (p : Label) (q : MicroSeq) (s : State) :
    ((∃ n, s.cfg.pollBound = some n ∧ n ≤ s.pollCount + 1) ∧
      pollAgain p q s = { s with pollCount := s.pollCount + 1 }.timeout (q.frameAfter .idle)) ∨
    ((∀ n, s.cfg.pollBound = some n → s.pollCount + 1 < n) ∧
      pollAgain p q s = { s with pollCount := s.pollCount + 1 }.goto q p) := by
  unfold pollAgain pollsExhausted
  cases hb : s.cfg.pollBound with
  | none => exact .inr ⟨by simp, by simp⟩
  | some n =>
    by_cases hn : n ≤ s.pollCount + 1
    · exact .inl ⟨⟨n, rfl, hn⟩, by simp [hn]⟩
    · exact .inr ⟨fun m hm => by cases hm; omega, by simp [hn]⟩

theorem driveCsHigh_ok {s : State} {bytes : List Byte} (h : s.answer 0 = .ok bytes) (k : State → State) :
    driveCsHigh k s = k { s.drew with cs := 1 } := by
  simp only [driveCsHigh, h]

theorem driveCsHigh_fail {s : State} (h : s.answer 0 = .fail) (k : State → State) :
    driveCsHigh k s = s.transportFault := by
  simp only [driveCsHigh, h]

/-! ## Acceptance -/

@[simp] theorem frameAfter_ordered {q : MicroSeq} (h : q.violated = false) (f : Frame) : q.frameAfter f = f := by
  simp [MicroSeq.frameAfter, h]

@[simp] theorem frameAfter_violated {q : MicroSeq} (h : q.violated = true) (f : Frame) : q.frameAfter f = .unknown := by
  simp [MicroSeq.frameAfter, h]

theorem accept_refused {s : State} {i : Instr} {e : Err} (h : refusalOf s i = some e) : accept i s = s.refuse e := by
  simp only [accept, h]

theorem accept_accepted {s : State} {i : Instr} (h : refusalOf s i = none) : accept i s = s.begin i := by
  simp only [accept, h]

/-- When a command is accepted (R100). -/
theorem refusalOf_eq_none {s : State} {i : Instr} (hb : s.life ≠ .busy) :
    refusalOf s i = none ↔ ((s.life = .unbuilt ∧ i = .construct) ∨ (s.life = .ready ∧ i ≠ .construct)) ∧
      i.wf s.cfg.numChannels = true ∧
      (frameOk s.cfg.codes.sel s.frame i = true ∨ s.cfg.strictFraming = false) := by
  unfold refusalOf
  cases hl : s.life with
  | busy => exact absurd hl hb
  | unbuilt =>
    by_cases hc : i = .construct
    · simp [hc]; grind
    · simp [hc]
  | ready =>
    by_cases hc : i = .construct
    · simp [hc]
    · simp [hc]; grind
  | aborted => simp

/-- A refusal carries one of the codes 3 to 8 (R190, R195). -/
theorem refusalOf_isRefusal {s : State} {i : Instr} {e : Err} (h : refusalOf s i = some e) : e.isRefusal = true := by
  unfold refusalOf at h
  split_ifs at h <;> cases h <;> rfl

/-! ## One step of a command -/

theorem stepCommand_idle {s : State} (h : s.life ≠ .busy) (i : Instr) (body : MicroSeq → State → Option State) :
    stepCommand i body s = .next (accept i s) := by
  simp only [stepCommand, if_neg h]

theorem stepCommand_running {s s' : State} {q : MicroSeq} {i : Instr} {body : MicroSeq → State → Option State}
    (hl : s.life = .busy) (hq : s.seq = some q) (hc : q.cmd = i) (hb : body q s = some s') :
    stepCommand i body s = .next s' := by
  simp only [stepCommand, if_pos hl, hq, if_pos hc, hb]

/-- The step of each command at its labels. -/
def bodyOf : Instr → MicroSeq → State → Option State
  | .construct => constructBody
  | .select sel ch dir => selectBody sel ch dir
  | .wrclk clkdis div rate => wrclkBody clkdis div rate
  | .wrsetup mode gain pol buf fsync => wrsetupBody mode gain pol buf fsync
  | .rdconv => rdconvBody
  | .read ch => readBody ch
  | .readv ch reference => readvBody ch reference
  | .drdy ch => drdyBody ch
  | .reset => resetBody
  | .init ch div pol gain rate => initBody ch div pol gain rate

/-- Every meaning is a command's step over its own labels. -/
theorem exec_eq_stepCommand (i : Instr) (s : State) : exec i s = stepCommand i (bodyOf i) s := by
  cases i <;> rfl

theorem exec_idle {s : State} (h : s.life ≠ .busy) (i : Instr) : exec i s = .next (accept i s) := by
  rw [exec_eq_stepCommand, stepCommand_idle h]

theorem exec_running {s s' : State} {q : MicroSeq} {i : Instr} (hl : s.life = .busy) (hq : s.seq = some q) (hc : q.cmd = i)
    (hb : bodyOf i q s = some s') : exec i s = .next s' := by
  rw [exec_eq_stepCommand, stepCommand_running hl hq hc hb]

/-- Everything a command's step can do when it answers a next state. -/
theorem exec_next_cases {i : Instr} {s t : State} (h : exec i s = .next t) :
    (s.life ≠ .busy ∧ ((∃ e, refusalOf s i = some e ∧ t = s.refuse e) ∨ (refusalOf s i = none ∧ t = s.begin i))) ∨
    (s.life = .busy ∧ ∃ q, s.seq = some q ∧ q.cmd = i ∧ bodyOf i q s = some t) := by
  by_cases hl : s.life = .busy
  · right
    rw [exec_eq_stepCommand] at h
    unfold stepCommand at h
    rw [if_pos hl] at h
    cases hq : s.seq with
    | none => simp [hq] at h
    | some q =>
      by_cases hc : q.cmd = i
      · cases hb : bodyOf i q s with
        | none => simp [hq, hc, hb] at h
        | some s' =>
          simp only [hq, if_pos hc, hb] at h
          cases h
          exact ⟨hl, q, rfl, hc, hb⟩
      · simp [hq, hc] at h
  · left
    rw [exec_idle hl] at h
    cases h
    refine ⟨hl, ?_⟩
    cases hr : refusalOf s i with
    | none => exact .inr ⟨rfl, accept_accepted hr⟩
    | some e => exact .inl ⟨e, rfl, accept_refused hr⟩

/-! ## The machine's step -/

theorem step_running {s : State} {q : MicroSeq} (hl : s.life = .busy) (hq : s.seq = some q) : step s = exec q.cmd s := by
  simp only [step, if_pos hl, hq]

theorem step_waits {s : State} (hl : s.life ≠ .busy) (hc : s.cmds = []) : step s = .next s := by
  simp only [step, if_neg hl, State.fetch, hc]

theorem step_presents {s : State} {w : Word32} {rest : List Word32} {i : Instr} (hl : s.life ≠ .busy)
    (hc : s.cmds = w :: rest) (hd : decode w = .ok i) : step s = exec i { s with cmds := rest } := by
  simp only [step, if_neg hl, State.fetch, hc, hd]

theorem step_illegal {s : State} {w : Word32} {rest : List Word32} {r : Illegal} (hl : s.life ≠ .busy)
    (hc : s.cmds = w :: rest) (hd : decode w = .error r) :
    step s = .next { s with cmds := rest }.refuseIllegal := by
  simp only [step, if_neg hl, State.fetch, hc, hd]

/-- Everything one step can do when it answers a next state. -/
theorem step_cases {s t : State} (h : step s = .next t) :
    (s.life ≠ .busy ∧ s.cmds = [] ∧ t = s) ∨
    (∃ w rest, s.life ≠ .busy ∧ s.cmds = w :: rest ∧ (∃ r, decode w = .error r) ∧
      t = { s with cmds := rest }.refuseIllegal) ∨
    (∃ w rest i e, s.life ≠ .busy ∧ s.cmds = w :: rest ∧ decode w = .ok i ∧
      refusalOf { s with cmds := rest } i = some e ∧ t = { s with cmds := rest }.refuse e) ∨
    (∃ w rest i, s.life ≠ .busy ∧ s.cmds = w :: rest ∧ decode w = .ok i ∧
      refusalOf { s with cmds := rest } i = none ∧ t = { s with cmds := rest }.begin i) ∨
    (∃ q, s.life = .busy ∧ s.seq = some q ∧ bodyOf q.cmd q s = some t) := by
  by_cases hl : s.life = .busy
  · cases hq : s.seq with
    | none => simp [step, hl, hq] at h
    | some q =>
      rw [step_running hl hq] at h
      rcases exec_next_cases h with ⟨hn, -⟩ | ⟨-, q', hq', -, hb⟩
      · exact absurd hl hn
      · rw [hq] at hq'
        cases hq'
        exact .inr (.inr (.inr (.inr ⟨q, hl, rfl, hb⟩)))
  · cases hc : s.cmds with
    | nil =>
      rw [step_waits hl hc] at h
      cases h
      exact .inl ⟨hl, rfl, rfl⟩
    | cons w rest =>
      cases hd : decode w with
      | error r =>
        rw [step_illegal hl hc hd] at h
        cases h
        exact .inr (.inl ⟨w, rest, hl, rfl, ⟨r, hd⟩, rfl⟩)
      | ok i =>
        rw [step_presents hl hc hd] at h
        rcases exec_next_cases h with ⟨-, ⟨e, he, rfl⟩ | ⟨hr, rfl⟩⟩ | ⟨hb, -⟩
        · exact .inr (.inr (.inl ⟨w, rest, i, e, hl, rfl, hd, he, rfl⟩))
        · exact .inr (.inr (.inr (.inl ⟨w, rest, i, hl, rfl, hd, hr, rfl⟩)))
        · exact absurd hb hl

/-! ## Runs -/

theorem stepN_succ {s s' : State} (h : step s = .next s') (k : Nat) : stepN (k + 1) s = stepN k s' := by
  simp only [stepN, h]

theorem stepN_add {s s' : State} {j : Nat} (h : stepN j s = .next s') (k : Nat) : stepN (j + k) s = stepN k s' := by
  induction j generalizing s with
  | zero => cases h; rw [Nat.zero_add]
  | succ j ih =>
    rw [Nat.add_right_comm]
    cases hs : step s with
    | next s1 => rw [stepN_succ hs] at h ⊢; exact ih h
    | fault r => simp [stepN, hs] at h
    | refused r => simp [stepN, hs] at h

/-- The model's runs are the host's. -/
theorem stepN_eq_run (k : Nat) (s : core.State) : stepN k s = core.run k s := by
  induction k generalizing s with
  | zero => rfl
  | succ k ih =>
    have h : ∀ o : Outcome, step s = o → stepN (k + 1) s = core.run (k + 1) s := by
      intro o ho
      have hc : core.step s = o := ho
      cases o with
      | next s' => simp only [stepN, Host.Core.run, ho, hc]; exact ih s'
      | fault r => simp only [stepN, Host.Core.run, ho, hc]; rfl
      | refused r => simp only [stepN, Host.Core.run, ho, hc]; rfl
    exact h _ rfl

end Sys2Proof.Machine
end

