-- ==== Sys2Proof/Laws/PerInstr.lean ====
section
/-! SUPPORT. Statements made of every command, one lemma per constructor. -/

namespace Sys2Proof.Laws.RoundTrip

/-- R88, R89: the word of a command lies in its row and decodes to the command with every operand. -/
def Statement (i : Instr) : Prop := i.row.selects (encode i) = true ∧ decode (encode i) = .ok i

theorem and_ones (x : BitVec 4) : x &&& 0xF#4 = x := by revert x; decide

/-- Every row fixes the opcode (R89). -/
theorem opcode_of_selects {r : Row} (hr : r ∈ Row.all) {w : Word32} (h : r.selects w = true) :
    w.extractLsb' 28 4 = r.pattern.extractLsb' 28 4 := by
  have hm : ∀ r ∈ Row.all, r.mask.extractLsb' 28 4 = 0xF#4 := by decide
  have hw : w &&& r.mask = r.pattern := by simpa [Row.selects] using h
  rw [← hw, BitVec.extractLsb'_and, hm r hr, and_ones]

/-- A row whose opcode is not the word's does not select it. -/
theorem not_selects {r : Row} (hr : r ∈ Row.all) {w : Word32} {op : BitVec 4} (hw : w.extractLsb' 28 4 = op)
    (hne : r.pattern.extractLsb' 28 4 ≠ op) : r.selects w = false := by
  cases h : r.selects w with
  | false => rfl
  | true => exact absurd (hw ▸ (opcode_of_selects hr h).symm) hne

theorem construct : Statement .construct := by unfold Statement; decide

theorem select (sel : Sel) (ch : Chan) (dir : Bit) : Statement (.select sel ch dir) := by
  unfold Statement; revert sel ch dir; decide

theorem wrclk (clkdis div : Bit) (rate : BitVec 3) : Statement (.wrclk clkdis div rate) := by
  unfold Statement; revert clkdis div rate; decide

theorem wrsetup (mode : BitVec 2) (gain : BitVec 3) (pol buf fsync : Bit) :
    Statement (.wrsetup mode gain pol buf fsync) := by
  unfold Statement; revert mode gain pol buf fsync; decide

theorem rdconv : Statement .rdconv := by unfold Statement; decide

theorem read (ch : Chan) : Statement (.read ch) := by unfold Statement; revert ch; decide

/-- READV's word, bit by bit (layout V, R89). -/
theorem readv_bit (ch : Chan) (reference : Word16) (i : Nat) : (encode (.readv ch reference)).getLsbD i =
    if i < 2 then ch.getLsbD i else if i < 8 then false else if i < 24 then reference.getLsbD (i - 8)
    else (0x60#8).getLsbD (i - 24) := by
  show BitVec.getLsbD (w := 8 + 16 + 6 + 2) (0x60#8 ++ reference ++ 0#6 ++ ch) i = _
  simp only [BitVec.getLsbD_append, BitVec.getLsbD_zero]
  split_ifs <;> first | rfl | omega

theorem readv_selects (ch : Chan) (reference : Word16) : Row.readv.selects (encode (.readv ch reference)) = true := by
  refine decide_eq_true (BitVec.eq_of_getLsbD_eq fun i hi => ?_)
  rw [BitVec.getLsbD_and, readv_bit]
  interval_cases i <;> simp [Row.readv]

theorem readv_channel (ch : Chan) (reference : Word16) : (encode (.readv ch reference)).extractLsb' 0 2 = ch := by
  refine BitVec.eq_of_getLsbD_eq fun i hi => ?_
  rw [BitVec.getLsbD_extractLsb', readv_bit]
  simp [hi]

theorem readv_reference (ch : Chan) (reference : Word16) :
    (encode (.readv ch reference)).extractLsb' 8 16 = reference := by
  refine BitVec.eq_of_getLsbD_eq fun i hi => ?_
  rw [BitVec.getLsbD_extractLsb', readv_bit, if_neg (by omega), if_neg (by omega), if_pos (by omega)]
  simp [hi]

theorem readv (ch : Chan) (reference : Word16) : Statement (.readv ch reference) := by
  have hs := readv_selects ch reference
  have hop := opcode_of_selects (by decide) hs
  refine ⟨hs, ?_⟩
  unfold decode
  rw [not_selects (r := .construct) (by decide) hop (by decide), not_selects (r := .select) (by decide) hop (by decide),
    not_selects (r := .wrclk) (by decide) hop (by decide), not_selects (r := .wrsetup) (by decide) hop (by decide),
    not_selects (r := .rdconv) (by decide) hop (by decide), not_selects (r := .read) (by decide) hop (by decide), hs,
    readv_channel, readv_reference]
  simp

theorem drdy (ch : Chan) : Statement (.drdy ch) := by unfold Statement; revert ch; decide

theorem reset : Statement .reset := by unfold Statement; decide

theorem init (ch : Chan) (div pol : Bit) (gain rate : BitVec 3) : Statement (.init ch div pol gain rate) := by
  unfold Statement; revert ch div pol gain rate; decide

end Sys2Proof.Laws.RoundTrip
end

