-- ==== Sys2Proof/Laws/Values.lean ====
section
/-! SUPPORT. The values the block makes of received bytes, as numbers. -/

namespace Sys2Proof.Machine

theorem readyByte_eq (b : Byte) : readyByte b = !b.getLsbD 7 := by revert b; decide

theorem readyData_readyByte (b : Byte) : readyData (readyByte b) = if b.getLsbD 7 then 0 else 1 := by revert b; decide

/-- R74: the word as a number. -/
theorem dataWord_eq (b0 b1 : Byte) : dataWord b0 b1 = BitVec.ofNat 16 (b0.toNat * 256 + b1.toNat) := by
  apply BitVec.eq_of_toNat_eq
  have h0 := b0.isLt
  have h1 := b1.isLt
  have e : b0.toNat <<< 8 % 65536 = b0.toNat <<< 8 := by rw [Nat.shiftLeft_eq]; omega
  simp only [dataWord, BitVec.toNat_or, BitVec.toNat_shiftLeft, BitVec.toNat_setWidth, BitVec.toNat_ofNat, Nat.reducePow]
  rw [Nat.mod_eq_of_lt (a := b0.toNat) (by omega), Nat.mod_eq_of_lt (a := b1.toNat) (by omega), e,
    ← Nat.shiftLeft_add_eq_or_of_lt (by omega), Nat.shiftLeft_eq]
  omega

/-- R93: the data of a raw word. -/
theorem rawData_dataWord (b0 b1 : Byte) : rawData (dataWord b0 b1) = BitVec.ofNat 32 (b0.toNat * 256 + b1.toNat) := by
  rw [dataWord_eq]
  apply BitVec.eq_of_toNat_eq
  have h0 := b0.isLt
  have h1 := b1.isLt
  simp only [rawData, BitVec.toNat_setWidth, BitVec.toNat_ofNat, Nat.reducePow]
  omega

/-- R142: the data of a scaled word. -/
theorem voltData_dataWord (b0 b1 : Byte) (reference : Word16) :
    voltData (dataWord b0 b1) reference = BitVec.ofNat 32 ((b0.toNat * 256 + b1.toNat) * reference.toNat / 65535) := by
  have h0 := b0.isLt
  have h1 := b1.isLt
  rw [dataWord_eq, voltData, scale, fullScaleDivisor, BitVec.toNat_ofNat,
    Nat.mod_eq_of_lt (a := b0.toNat * 256 + b1.toNat) (by omega)]

end Sys2Proof.Machine
end

