-- ==== Sys2Proof/Laws/Runs.lean ====
section
/-! SUPPORT. Runs of several steps: acceptance of a presented word, one step at a label, and any number of polls. -/

namespace Sys2Proof.Machine

/-- One step at a label of the running command. -/
theorem step_at {s t : State} {i : Instr} {v : Bool} {l : Label} (h : s.At i v l)
    (hb : bodyOf i ⟨i, v, l⟩ s = some t) : step s = .next t :=
  (step_running h.1 h.2).trans (exec_running h.1 h.2 rfl hb)

theorem stepN_one {s t : State} (h : step s = .next t) : stepN 1 s = .next t := stepN_succ h 0

theorem stepN_then {s s' : State} {j k : Nat} {o : Outcome} (h : stepN j s = .next s') (h' : stepN k s' = o) :
    stepN (j + k) s = o := by rw [stepN_add h, h']

/-- A presented word whose command passes every check in order (R100). -/
theorem step_begins {s : State} {w : Word32} {rest : List Word32} {i : Instr} (hl : s.life = .ready) (hi : i ≠ .construct)
    (hc : s.cmds = w :: rest) (hd : decode w = .ok i) (hw : i.wf s.cfg.numChannels = true)
    (hf : frameOk s.cfg.codes.sel s.frame i = true) :
    step s = .next { s with
      cmds := rest, life := .busy, seq := some ⟨i, false, firstLabel i⟩, pollCount := 0 } := by
  have hb : s.life ≠ .busy := by simp [hl]
  rw [step_presents hb hc hd, exec_idle (by exact hb), accept_accepted]
  · simp [State.begin, hf]
  · rw [refusalOf_eq_none (by exact hb)]
    exact ⟨.inr ⟨hl, hi⟩, hw, .inl hf⟩

/-- The state after `k` polls (R143), but for what the command running them keeps of its own. -/
def polled (ch : Chan) (a st : Nat → Byte) (s : State) : Nat → State
  | 0 => s
  | k + 1 => { ((polled ch a st s k).exchanged [commByte s.cfg.codes.sel.comm ch 1] [a k]).exchanged
      [s.cfg.dummyTx] [st k] with frame := .idle }

variable {ch : Chan} {a st : Nat → Byte} {s : State}

@[simp] theorem polled_cfg (k : Nat) : (polled ch a st s k).cfg = s.cfg := by
  induction k with | zero => rfl | succ k ih => exact ih
@[simp] theorem polled_life (k : Nat) : (polled ch a st s k).life = s.life := by
  induction k with | zero => rfl | succ k ih => exact ih
@[simp] theorem polled_seq (k : Nat) : (polled ch a st s k).seq = s.seq := by
  induction k with | zero => rfl | succ k ih => exact ih
@[simp] theorem polled_rsp (k : Nat) : (polled ch a st s k).rsp = s.rsp := by
  induction k with | zero => rfl | succ k ih => exact ih
@[simp] theorem polled_chan (k : Nat) : (polled ch a st s k).chan = s.chan := by
  induction k with | zero => rfl | succ k ih => exact ih
@[simp] theorem polled_fault (k : Nat) : (polled ch a st s k).fault = s.fault := by
  induction k with | zero => rfl | succ k ih => exact ih
@[simp] theorem polled_cmds (k : Nat) : (polled ch a st s k).cmds = s.cmds := by
  induction k with | zero => rfl | succ k ih => exact ih
@[simp] theorem polled_pollCount (k : Nat) : (polled ch a st s k).pollCount = s.pollCount := by
  induction k with | zero => rfl | succ k ih => exact ih
theorem polled_frame (k : Nat) (h : s.frame = .idle) : (polled ch a st s k).frame = .idle := by
  cases k with | zero => exact h | succ k => rfl
theorem polled_trace (k : Nat) : (polled ch a st s k).trace = s.trace ++ pollEvents s.cfg ch a st k := by
  induction k with
  | zero => simp [polled, pollEvents]
  | succ k ih => simp [polled, ih, pollEvents, List.range_succ]
theorem polled_gives (k j n : Nat) (rx : List Byte) :
    (polled ch a st s k).Gives j n rx ↔ s.Gives (2 * k + j) n rx := by
  induction k generalizing j with
  | zero => simp [polled]
  | succ k ih =>
    have : (polled ch a st s (k + 1)).Gives j n rx ↔ (polled ch a st s k).Gives (j + 1 + 1) n rx := by
      rw [← gives_exchanged _ [s.cfg.dummyTx] [st k], ← gives_exchanged _ [s.cfg.dummyTx] [st k]]
      exact gives_congr rfl rfl _ _ _
    rw [this, ih, show 2 * (k + 1) + j = 2 * k + (j + 1 + 1) by omega]

/-- Polls do not read what the command running them keeps of its own. -/
theorem polled_with (c : List Word32) (lf : Life) (q : Option MicroSeq) (n : Nat) (r : Option Rsp)
    (x : PerChan ChanState) (k : Nat) :
    polled ch a st { s with cmds := c, life := lf, seq := q, pollCount := n, rsp := r, chan := x } k =
      { polled ch a st s k with cmds := c, life := lf, seq := q, pollCount := n, rsp := r, chan := x } := by
  induction k with
  | zero => rfl
  | succ k ih => simp only [polled, ih]; rfl

/-- The commands that poll: the labels of their poll and of the step after it. -/
inductive Polls (ch : Chan) : Instr → Label → Label → (Bool → Label) → Prop where
  | read : Polls ch (.read ch) .l0y0 .l0y1 .l1
  | readv (r : Word16) : Polls ch (.readv ch r) .l0y0 .l0y1 .l1
  | init (d p : Bit) (g r : BitVec 3) : Polls ch (.init ch d p g r) .i4y0 .i4y1 .i5

variable {i : Instr} {v : Bool} {p y : Label} {l : Bool → Label}

/-- The COMM byte of a poll (R143 Y0). -/
theorem poll_frame (h : Polls ch i p y l) (hs : s.At i v p) {x : Byte} (hg : s.Gives 0 1 [x]) :
    step s = .next { s.exchanged [commByte s.cfg.codes.sel.comm ch 1] [x] with
      frame := .framed s.cfg.codes.sel.comm ch 1, seq := some ⟨i, v, y⟩ } := by
  have hx := xfer_gives (tx := [commByte s.cfg.codes.sel.comm ch 1]) hg
  refine step_at hs ?_
  cases h <;> simp only [bodyOf, readBody, readvBody, readLabels, initBody, pollFrame, frameAccess, hx] <;> rfl

/-- The status byte of a poll (R143 Y1). -/
theorem poll_read (h : Polls ch i p y l) (hs : s.At i v y) {b : Byte} (hg : s.Gives 0 1 [b]) :
    step s = .next { s.exchanged [s.cfg.dummyTx] [b] with
      frame := .idle, seq := some ⟨i, v, l (!b.getLsbD 7)⟩ } := by
  have hx := xfer_gives (tx := [s.cfg.dummyTx]) hg
  refine step_at hs ?_
  cases h <;> simp only [bodyOf, readBody, readvBody, readLabels, initBody, pollRead, hx, List.headD_cons, readyByte_eq] <;> rfl

/-- A poll. -/
theorem poll_two (h : Polls ch i p y l) (hs : s.At i v p) {x b : Byte} (h0 : s.Gives 0 1 [x]) (h1 : s.Gives 1 1 [b]) :
    stepN 2 s = .next { (s.exchanged [commByte s.cfg.codes.sel.comm ch 1] [x]).exchanged [s.cfg.dummyTx] [b] with
      frame := .idle, seq := some ⟨i, v, l (!b.getLsbD 7)⟩ } := by
  rw [stepN_succ (poll_frame h hs h0) 1]
  refine stepN_one ((poll_read (v := v) h ⟨by exact hs.1, rfl⟩ (b := b) ?_).trans rfl)
  exact (gives_congr rfl rfl _ _ _).1 ((gives_exchanged s [b] [b] 0 _ _).2 h1)

theorem poll_again (h : Polls ch i p y l) (hs : s.At i v (l false)) (hb : ∀ n, s.cfg.pollBound = some n → s.pollCount + 1 < n) :
    step s = .next { s with pollCount := s.pollCount + 1, seq := some ⟨i, v, p⟩ } := by
  have : pollAgain p ⟨i, v, l false⟩ s = { s with pollCount := s.pollCount + 1, seq := some ⟨i, v, p⟩ } := by
    rcases pollAgain_cases p ⟨i, v, l false⟩ s with ⟨⟨n, hn, hle⟩, -⟩ | ⟨-, hx⟩
    · have := hb n hn; omega
    · exact hx
  refine step_at hs ?_
  rw [← this]
  cases h <;> rfl

theorem poll_timeout (h : Polls ch i p y l) (hs : s.At i v (l false)) {n : Nat} (hn : s.cfg.pollBound = some n)
    (hle : n ≤ s.pollCount + 1) :
    step s = .next { s with
      pollCount := s.pollCount + 1, frame := if v then .unknown else .idle, rsp := some ⟨.protocolTimeout, 0⟩
      life := .ready, seq := none } := by
  have : pollAgain p ⟨i, v, l false⟩ s = { s with
      pollCount := s.pollCount + 1, frame := if v then .unknown else .idle, rsp := some ⟨.protocolTimeout, 0⟩
      life := .ready, seq := none } := by
    rcases pollAgain_cases p ⟨i, v, l false⟩ s with ⟨-, hx⟩ | ⟨hx, -⟩
    · exact hx
    · have := hx n hn; omega
  refine step_at hs ?_
  rw [← this]
  cases h <;> rfl

/-- `k` unready polls. -/
theorem polls_unready (h : Polls ch i p y l) (hs : s.At i v p) (k : Nat) (hb : ∀ n, s.cfg.pollBound = some n → s.pollCount + k < n)
    (hg : s.GivesPolls 0 k a st) (hu : ∀ j < k, (st j).getLsbD 7 = true) :
    stepN (3 * k) s = .next { polled ch a st s k with pollCount := s.pollCount + k } := by
  induction k with
  | zero => rfl
  | succ k ih =>
    have ih := ih (fun n hn => by have := hb n hn; omega) (fun j hj => hg j (by omega)) (fun j hj => hu j (by omega))
    rw [show 3 * (k + 1) = 3 * k + (2 + 1) by omega]
    refine stepN_then ih (stepN_then (poll_two h ⟨by simpa using hs.1, by simpa using hs.2⟩ (x := a k) (b := st k) ?_ ?_)
      (stepN_one ((poll_again h (v := v) ⟨by simpa using hs.1, by have := hu k (by omega); simp at this; simp [this]⟩ ?_).trans ?_)))
    · refine (gives_congr rfl rfl _ _ _).1 ((polled_gives (ch := ch) (a := a) (st := st) k 0 _ _).2 ?_)
      simpa using (hg k (by omega)).1
    · refine (gives_congr rfl rfl _ _ _).1 ((polled_gives (ch := ch) (a := a) (st := st) k 1 _ _).2 ?_)
      simpa using (hg k (by omega)).2
    · intro n hn; simp at hn ⊢; have := hb n hn; omega
    · simp [polled, State.exchanged, hs.2, Nat.add_assoc]

/-- `k` unready polls, then a ready one. -/
theorem polls_ready (h : Polls ch i p y l) (hs : s.At i v p) (k : Nat) (hb : ∀ n, s.cfg.pollBound = some n → s.pollCount + k < n)
    (hg : s.GivesPolls 0 (k + 1) a st) (hu : ∀ j < k, (st j).getLsbD 7 = true) (hr : (st k).getLsbD 7 = false) :
    stepN (3 * k + 2) s = .next { polled ch a st s (k + 1) with pollCount := s.pollCount + k, seq := some ⟨i, v, l true⟩ } := by
  refine stepN_then (polls_unready h hs k hb (fun j hj => hg j (by omega)) hu) ((poll_two h (x := a k) (b := st k) (v := v) 
    ⟨by simpa using hs.1, by simpa using hs.2⟩ ?_ ?_).trans ?_)
  · refine (gives_congr rfl rfl _ _ _).1 ((polled_gives (ch := ch) (a := a) (st := st) k 0 _ _).2 ?_)
    simpa using (hg k (by omega)).1
  · refine (gives_congr rfl rfl _ _ _).1 ((polled_gives (ch := ch) (a := a) (st := st) k 1 _ _).2 ?_)
    simpa using (hg k (by omega)).2
  · simp at hr; simp [polled, State.exchanged, hr]

end Sys2Proof.Machine
end

