-- ==== Sys2Proof/Laws/Steps.lean ====
section
/-! SUPPORT. Everything one step of a running command can do, said once by kind: it fails, drives chip-select, makes a transfer, or updates between transfers. -/

namespace Sys2Proof.Machine

/-- The command goes on at a label of its own, or it has ended with a response (R24). -/
def GoesOn (q : MicroSeq) (s t : State) : Prop :=
  (t.life = s.life ∧ t.rsp = s.rsp ∧ ∃ l, t.seq = some { q with label := l }) ∨
  (t.life = .ready ∧ t.seq = none ∧ t.rsp.isSome = true)

/-- The transport fails the act of this step (R191). -/
def Fails (q : MicroSeq) (s t : State) : Prop :=
  q.label.acts = true ∧ s.answer 0 = .fail ∧ t = s.transportFault

/-- CONSTRUCT drives chip-select (R101 K0). -/
def Drives (q : MicroSeq) (s t : State) : Prop :=
  q.cmd = .construct ∧ q.label = .k0 ∧ (∃ bytes, s.answer 0 = .ok bytes) ∧ t = { s.drew with cs := 1 }.goto q .k1

/-- A step that makes a transfer, and what else it may change. -/
def Exchanges (q : MicroSeq) (s t : State) : Prop :=
  q.label.acts = true ∧ q.label ≠ .k0 ∧ GoesOn q s t ∧
  (t.chan = s.chan ∨
    ∃ ch d p g r, q.cmd = .init ch d p g r ∧ q.label = .i3 ∧ t.chan = s.chan.set ch .calibrating) ∧
  ∃ tx rx, s.Gives 0 tx.length rx ∧ (tx.length = 1 ∨ tx.length = 2) ∧
    t = { s.exchanged tx rx with frame := t.frame, chan := t.chan, life := t.life, seq := t.seq, rsp := t.rsp }

/-- A step between transfers, and what it may change. -/
def Updates (q : MicroSeq) (s t : State) : Prop :=
  q.label.acts = false ∧ GoesOn q s t ∧
  (t.chan = s.chan ∨ (q.cmd = .construct ∧ q.label = .k1 ∧ t.chan = .replicate .uninit) ∨
    (q.cmd = .reset ∧ q.label = .z2 ∧ t.chan = .replicate .uninit) ∨
    ∃ ch d p g r, q.cmd = .init ch d p g r ∧ q.label = .i6 ∧ t.chan = s.chan.set ch .ready) ∧
  t = { s with
    frame := t.frame, chan := t.chan, chip := t.chip, draws := t.draws, pollCount := t.pollCount, life := t.life
    seq := t.seq, rsp := t.rsp }

theorem frameAccess_kinds {q : MicroSeq} {s t : State} {sel : Sel} {ch : Chan} {dir : Bit} {n : Label}
    (ha : q.label.acts = true) (hk : q.label ≠ .k0) (h : frameAccess sel ch dir n q s = t) :
    Fails q s t ∨ Exchanges q s t := by
  rcases frameAccess_cases sel ch dir n q s with ⟨hf, hx⟩ | ⟨r, hg, hx⟩ <;> rw [hx] at h <;> subst h
  · exact .inl ⟨ha, hf, rfl⟩
  · exact .inr ⟨ha, hk, .inl ⟨rfl, rfl, _, rfl⟩, .inl rfl, [_], _, hg, .inl rfl, rfl⟩

theorem xfer_one_kinds {q : MicroSeq} {s t : State} {b : Byte} {k : List Byte → State → State}
    (ha : q.label.acts = true) (hk : q.label ≠ .k0) (h : xfer [b] k s = t)
    (hg : ∀ r, GoesOn q s (k [r] (s.exchanged [b] [r])))
    (hc : ∀ r, (k [r] (s.exchanged [b] [r])).chan = s.chan ∨ ∃ ch d p g x, q.cmd = .init ch d p g x ∧ q.label = .i3 ∧
      (k [r] (s.exchanged [b] [r])).chan = s.chan.set ch .calibrating)
    (he : ∀ r, k [r] (s.exchanged [b] [r]) = { s.exchanged [b] [r] with
      frame := (k [r] (s.exchanged [b] [r])).frame, chan := (k [r] (s.exchanged [b] [r])).chan
      life := (k [r] (s.exchanged [b] [r])).life, seq := (k [r] (s.exchanged [b] [r])).seq
      rsp := (k [r] (s.exchanged [b] [r])).rsp }) :
    Fails q s t ∨ Exchanges q s t := by
  rcases xfer_one_cases b k s with ⟨hf, hx⟩ | ⟨r, hr, hx⟩ <;> rw [hx] at h <;> subst h
  · exact .inl ⟨ha, hf, rfl⟩
  · exact .inr ⟨ha, hk, hg r, hc r, [b], [r], hr, .inl rfl, he r⟩

theorem pollRead_kinds {q : MicroSeq} {s t : State} {k : Bool → State → State}
    (ha : q.label.acts = true) (hk : q.label ≠ .k0) (h : pollRead k s = t)
    (hg : ∀ r (u : State), u.life = s.life → u.rsp = s.rsp → GoesOn q s (k r u))
    (hc : ∀ r u, (k r u).chan = u.chan)
    (he : ∀ r u, k r u = { u with
      frame := (k r u).frame, life := (k r u).life, seq := (k r u).seq, rsp := (k r u).rsp }) :
    Fails q s t ∨ Exchanges q s t := by
  rcases pollRead_cases k s with ⟨hf, hx⟩ | ⟨r, hr, hx⟩ <;> rw [hx] at h <;> subst h
  · exact .inl ⟨ha, hf, rfl⟩
  · refine .inr ⟨ha, hk, hg _ _ rfl rfl, .inl (hc _ _), [s.cfg.dummyTx], _, hr, .inl rfl, (he _ _).trans ?_⟩
    rw [hc]

theorem readWord_kinds {q : MicroSeq} {s t : State} {k : Word16 → State → State}
    (ha : q.label.acts = true) (hk : q.label ≠ .k0) (h : readWord k s = t)
    (hg : ∀ r (u : State), u.life = s.life → u.rsp = s.rsp → GoesOn q s (k r u))
    (hc : ∀ r u, (k r u).chan = u.chan)
    (he : ∀ r u, k r u = { u with
      frame := (k r u).frame, life := (k r u).life, seq := (k r u).seq, rsp := (k r u).rsp }) :
    Fails q s t ∨ Exchanges q s t := by
  rcases readWord_cases k s with ⟨hf, hx⟩ | ⟨b0, b1, hr, hx⟩ <;> rw [hx] at h <;> subst h
  · exact .inl ⟨ha, hf, rfl⟩
  · refine .inr ⟨ha, hk, hg _ _ rfl rfl, .inl (hc _ _), [s.cfg.dummyTx, s.cfg.dummyTx], _, hr, .inr rfl,
      (he _ _).trans ?_⟩
    rw [hc]

theorem pollAgain_kinds {q : MicroSeq} {s t : State} {p : Label} (ha : q.label.acts = false) (h : pollAgain p q s = t) :
    Updates q s t := by
  rcases pollAgain_cases p q s with ⟨-, hx⟩ | ⟨-, hx⟩ <;> rw [hx] at h <;> subst h
  · exact ⟨ha, .inr ⟨rfl, rfl, rfl⟩, .inl rfl, rfl⟩
  · exact ⟨ha, .inl ⟨rfl, rfl, _, rfl⟩, .inl rfl, rfl⟩

theorem readLabels_kinds {ch : Chan} {q : MicroSeq} {s t : State} {k : Word16 → State → State}
    (h : readLabels ch k q s = some t)
    (hg : ∀ r (u : State), u.life = s.life → u.rsp = s.rsp → GoesOn q s (k r u))
    (hc : ∀ r u, (k r u).chan = u.chan)
    (he : ∀ r u, k r u = { u with
      frame := (k r u).frame, life := (k r u).life, seq := (k r u).seq, rsp := (k r u).rsp }) :
    (Fails q s t ∨ Exchanges q s t) ∨ Updates q s t := by
  obtain ⟨i, v, l⟩ := q
  cases l <;> simp only [readLabels, Option.some.injEq, reduceCtorEq] at h
  · exact .inl (frameAccess_kinds rfl (by simp) h)
  · exact .inl (pollRead_kinds rfl (by simp) h (fun _ _ a b => .inl ⟨a, b, _, rfl⟩) (fun _ _ => rfl) (fun _ _ => rfl))
  · split at h
    · subst h; exact .inr ⟨rfl, .inl ⟨rfl, rfl, _, rfl⟩, .inl rfl, rfl⟩
    · exact .inr (pollAgain_kinds rfl h)
  · exact .inl (frameAccess_kinds rfl (by simp) h)
  · exact .inl (readWord_kinds rfl (by simp) h hg hc he)

/-- Everything a running command's step can do. -/
theorem bodyOf_cases {q : MicroSeq} {s t : State} (h : bodyOf q.cmd q s = some t) :
    Fails q s t ∨ Drives q s t ∨ Exchanges q s t ∨ Updates q s t := by
  have F : Fails q s t ∨ Exchanges q s t → Fails q s t ∨ Drives q s t ∨ Exchanges q s t ∨ Updates q s t :=
    fun h => h.elim .inl fun h => .inr (.inr (.inl h))
  have R : (Fails q s t ∨ Exchanges q s t) ∨ Updates q s t →
      Fails q s t ∨ Drives q s t ∨ Exchanges q s t ∨ Updates q s t :=
    fun h => h.elim F fun h => .inr (.inr (.inr h))
  obtain ⟨i, v, l⟩ := q
  cases i with
  | construct =>
    cases l <;> simp only [bodyOf, constructBody, Option.some.injEq, reduceCtorEq] at h
    · unfold driveCsHigh at h
      split at h <;> subst h
      · rename_i b hb; exact .inr (.inl ⟨rfl, rfl, ⟨b, hb⟩, rfl⟩)
      · rename_i hb; exact .inl ⟨rfl, hb, rfl⟩
    · subst h; exact R (.inr ⟨rfl, .inr ⟨rfl, rfl, rfl⟩, .inr (.inl ⟨rfl, rfl, rfl⟩), rfl⟩)
  | select =>
    cases l <;> simp only [bodyOf, selectBody, Option.some.injEq, reduceCtorEq] at h
    exact F (xfer_one_kinds rfl (by simp) h (fun _ => .inr ⟨rfl, rfl, rfl⟩) (fun _ => .inl rfl) (fun _ => rfl))
  | wrclk =>
    cases l <;> simp only [bodyOf, wrclkBody, Option.some.injEq, reduceCtorEq] at h
    exact F (xfer_one_kinds rfl (by simp) h (fun _ => .inr ⟨rfl, rfl, rfl⟩) (fun _ => .inl rfl) (fun _ => rfl))
  | wrsetup =>
    cases l <;> simp only [bodyOf, wrsetupBody, Option.some.injEq, reduceCtorEq] at h
    exact F (xfer_one_kinds rfl (by simp) h (fun _ => .inr ⟨rfl, rfl, rfl⟩) (fun _ => .inl rfl) (fun _ => rfl))
  | rdconv =>
    cases l <;> simp only [bodyOf, rdconvBody, Option.some.injEq, reduceCtorEq] at h
    exact F (readWord_kinds rfl (by simp) h (fun _ _ _ _ => .inr ⟨rfl, rfl, rfl⟩) (fun _ _ => rfl) (fun _ _ => rfl))
  | read =>
    exact R (readLabels_kinds h (fun _ _ _ _ => .inr ⟨rfl, rfl, rfl⟩) (fun _ _ => rfl) (fun _ _ => rfl))
  | readv =>
    simp only [bodyOf, readvBody] at h
    split at h
    · simp only [Option.some.injEq] at h; subst h
      exact R (.inr ⟨rfl, .inr ⟨rfl, rfl, rfl⟩, .inl rfl, rfl⟩)
    · exact R (readLabels_kinds h (fun _ _ a b => .inl ⟨a, b, _, rfl⟩) (fun _ _ => rfl) (fun _ _ => rfl))
  | drdy =>
    cases l <;> simp only [bodyOf, drdyBody, Option.some.injEq, reduceCtorEq] at h
    · exact F (frameAccess_kinds rfl (by simp) h)
    · exact F (pollRead_kinds rfl (by simp) h (fun _ _ _ _ => .inr ⟨rfl, rfl, rfl⟩) (fun _ _ => rfl) (fun _ _ => rfl))
  | reset =>
    cases l <;> simp only [bodyOf, resetBody, Option.some.injEq, reduceCtorEq] at h
    · subst h; exact R (.inr ⟨rfl, .inl ⟨rfl, rfl, _, rfl⟩, .inl rfl, rfl⟩)
    · split at h
      · rename_i hi
        exact F (xfer_one_kinds (by simpa [Label.acts] using hi) (by simp) h (fun _ => .inl ⟨rfl, rfl, _, rfl⟩)
          (fun _ => .inl rfl) (fun _ => rfl))
      · rename_i hi
        subst h; exact R (.inr ⟨by simpa [Label.acts] using hi, .inl ⟨rfl, rfl, _, rfl⟩, .inl rfl, rfl⟩)
    · subst h; exact R (.inr ⟨rfl, .inr ⟨rfl, rfl, rfl⟩, .inr (.inr (.inl ⟨rfl, rfl, rfl⟩)), rfl⟩)
  | init ch d p g r =>
    cases l <;> simp only [bodyOf, initBody, Option.some.injEq, reduceCtorEq] at h
    · exact F (frameAccess_kinds rfl (by simp) h)
    · exact F (xfer_one_kinds rfl (by simp) h (fun _ => .inl ⟨rfl, rfl, _, rfl⟩) (fun _ => .inl rfl) (fun _ => rfl))
    · exact F (frameAccess_kinds rfl (by simp) h)
    · exact F (xfer_one_kinds rfl (by simp) h (fun _ => .inl ⟨rfl, rfl, _, rfl⟩)
        (fun _ => .inr ⟨_, _, _, _, _, rfl, rfl, rfl⟩) (fun _ => rfl))
    · exact F (frameAccess_kinds rfl (by simp) h)
    · exact F (pollRead_kinds rfl (by simp) h (fun _ _ a b => .inl ⟨a, b, _, rfl⟩) (fun _ _ => rfl) (fun _ _ => rfl))
    · split at h
      · subst h; exact R (.inr ⟨rfl, .inl ⟨rfl, rfl, _, rfl⟩, .inl rfl, rfl⟩)
      · exact R (.inr (pollAgain_kinds rfl h))
    · subst h; exact R (.inr ⟨rfl, .inr ⟨rfl, rfl, rfl⟩, .inr (.inr (.inr ⟨_, _, _, _, _, rfl, rfl, rfl⟩)), rfl⟩)
end Sys2Proof.Machine
end

