-- ==== Sys2Proof/Laws/Unread.lean ====
section
/-! SUPPORT. The shared operations that make no transfer commute with replacing what the block never reads (R13, R28, R40, R64). -/

namespace Sys2Proof.Machine

variable (s : State) (tr : List XferEvent) (ch : PerChan ChanState) (chip : Chip)

@[simp] theorem answer_withUnread (k : Nat) : (s.withUnread tr ch chip).answer k = s.answer k := rfl

@[simp] theorem refusalOf_withUnread (i : Instr) : refusalOf (s.withUnread tr ch chip) i = refusalOf s i := rfl

/-- Acceptance depends on none of the three and keeps them. -/
theorem accept_withUnread (i : Instr) : accept i (s.withUnread tr ch chip) = (accept i s).withUnread tr ch chip := by
  unfold accept
  rw [refusalOf_withUnread]
  split <;> rfl

/-- So does an unready poll's decision to poll again. -/
theorem pollAgain_withUnread (p : Label) (q : MicroSeq) :
    pollAgain p q (s.withUnread tr ch chip) = (pollAgain p q s).withUnread tr ch chip := by
  unfold pollAgain
  rw [show pollsExhausted (s.withUnread tr ch chip) = pollsExhausted s from rfl]
  split <;> rfl

/-- Acceptance and an unready poll append no event. -/
@[simp] theorem accept_trace (i : Instr) : (accept i s).trace = s.trace := by
  unfold accept
  split <;> rfl

@[simp] theorem pollAgain_trace (p : Label) (q : MicroSeq) : (pollAgain p q s).trace = s.trace := by
  unfold pollAgain
  split <;> rfl

end Sys2Proof.Machine
end

