-- ==== Sys2Proof/Tests/Slice0.lean ====
section
/-! SUPPORT. The model's own tests: ill-formed terms refused, words written out from the spec's encodings, one step of each command, and a witness for each statement's hypotheses.  Expected values are those of spec/95_test_vectors.md and of the rules' worked examples. -/

namespace Sys2Proof.Tests

open Sys2Proof Sys2Proof.Machine

/-- A READY block. -/
def idle (f : Frame) (cmds : List Word32) (script : List Answer) : State :=
  { State.reset with life := .ready, cs := 1, frame := f, rsp := some ⟨.none, 0⟩, cmds := cmds, script := script }

/-- A BUSY block at a label of a command that runs in order. -/
def running (i : Instr) (l : Label) (f : Frame) (script : List Answer) : State :=
  { idle f [] script with life := .busy, seq := some ⟨i, false, l⟩ }

/-- A block whose transport has failed. -/
def aborted (cmds : List Word32) : State :=
  { idle .idle cmds [] with life := .aborted, fault := .transportFault, rsp := some ⟨.transportFault, 0⟩ }

/-- What of the next state a test looks at. -/
def after {α : Type} (o : Outcome) (f : State → α) : Option α :=
  match o with
  | .next s => some (f s)
  | .fault _ => none
  | .refused _ => none

/-! ## WellFormed refuses -/

theorem test_wf_select_channel_2_of_two : (Instr.select 3 2 1).wf .two = false := by decide
theorem test_wf_read_channel_3_of_two : (Instr.read 3).wf .two = false := by decide
theorem test_wf_readv_channel_2_of_two : (Instr.readv 2 3300).wf .two = false := by decide
theorem test_wf_drdy_channel_2_of_two : (Instr.drdy 2).wf .two = false := by decide
theorem test_wf_init_channel_3_of_two : (Instr.init 3 0 0 0 1).wf .two = false := by decide
theorem test_wf_channel_1_of_two_and_3_of_four :
    (Instr.read 1).wf .two = true ∧ (Instr.read 3).wf .four = true := by decide
/-- POLL_BOUND is at least 1 (R6). -/
theorem test_wf_poll_bound_zero : ({ defaultConfig with pollBound := some 0 } : Config).wf = false := by decide
theorem test_wf_poll_bound_one : ({ defaultConfig with pollBound := some 1 } : Config).wf = true := by decide
/-- One ill-formed map of CODES each (R84). -/
theorem test_wf_sel_codes : ({ defaultCodes with sel := { defaultCodes.sel with data := 2 } } : Codes).wf = false := by decide
theorem test_wf_chan_codes : ({ defaultCodes with chn := { defaultCodes.chn with ain2 := 0 } } : Codes).wf = false := by decide
theorem test_wf_rate_codes : ({ defaultCodes with rate := { defaultCodes.rate with hz500 := 0 } } : Codes).wf = false := by decide
theorem test_wf_mode_codes : ({ defaultCodes with mode := { defaultCodes.mode with selfCal := 0 } } : Codes).wf = false := by decide
theorem test_wf_gain_codes : ({ defaultCodes with gain := { defaultCodes.gain with x128 := 3 } } : Codes).wf = false := by decide
theorem test_wf_pol_codes : ({ defaultCodes with pol := ⟨1, 1⟩ } : Codes).wf = false := by decide
theorem test_wf_div_codes : ({ defaultCodes with div := ⟨0, 0⟩ } : Codes).wf = false := by decide

/-! ## Decoding: words written out field by field from R89 -/

theorem test_decode_construct : decode 0b0000_0000_0000_0000_0000_0000_0000_0000 = .ok .construct := by decide
/-- op 1, sel 6, dir 1, ch 2: `0001 … 0 110 1 0 10`. -/
theorem test_decode_select : decode 0b0001_0000_0000_0000_0000_0000_0110_1010 = .ok (.select 6 2 1) := by decide
/-- op 2, clkdis 1, div 0, rate 5: `0010 … 1 0 101`. -/
theorem test_decode_wrclk : decode 0b0010_0000_0000_0000_0000_0000_0001_0101 = .ok (.wrclk 1 0 5) := by decide
/-- op 3, mode 2, gain 3, pol 1, buf 0, fsync 1: `0011 … 10 011 1 0 1`. -/
theorem test_decode_wrsetup : decode 0b0011_0000_0000_0000_0000_0000_1001_1101 = .ok (.wrsetup 2 3 1 0 1) := by decide
theorem test_decode_rdconv : decode 0b0100_0000_0000_0000_0000_0000_0000_0000 = .ok .rdconv := by decide
theorem test_decode_read : decode 0b0101_0000_0000_0000_0000_0000_0000_0011 = .ok (.read 3) := by decide
/-- op 6, reference 0x09C4 at bits 23:8, ch 1. -/
theorem test_decode_readv : decode 0b0110_0000_0000_1001_1100_0100_0000_0001 = .ok (.readv 1 2500) := by decide
theorem test_decode_drdy : decode 0b0111_0000_0000_0000_0000_0000_0000_0010 = .ok (.drdy 2) := by decide
theorem test_decode_reset : decode 0b1000_0000_0000_0000_0000_0000_0000_0000 = .ok .reset := by decide
/-- op 9, gain 3 at 15:13, pol 1 at 12, div 0 at 11, rate 2 at 10:8, ch 1. -/
theorem test_decode_init : decode 0b1001_0000_0000_0000_0111_0010_0000_0001 = .ok (.init 1 0 1 3 2) := by decide
/-- Vectors 2.2: one reserved bit of each layout. -/
theorem test_decode_reserved_bits :
    [0x00000001, 0x08000000, 0x10000080, 0x10000004, 0x10000100, 0x20000020, 0x30000100, 0x40000001, 0x50000004,
      0x61000000, 0x60000004, 0x70000010, 0x80000001, 0x90010000, 0x90000004, 0x90000010].all
      (fun w => decide (decode w = .error .reservedBit)) = true := by decide
theorem test_decode_reserved_opcodes :
    [0xA0000000, 0xB0000000, 0xC0000000, 0xD0000000, 0xE0000000, 0xF0000000, 0xFFFFFFFF].all
      (fun w => decide (decode w = .error .reservedOpcode)) = true := by decide
theorem test_table_word : decodeTableWord 32 0x9000F703 = some (.init 3 0 1 7 7) ∧ decodeTableWord 32 0xA0000000 = none := by
  decide
/-- R91's own examples. -/
theorem test_text : (Instr.readv 0 3300).text = "READV 0, 3300" ∧ (Instr.init 0 0 0 0 1).text = "INIT 0, 0, 0, 0, 1" ∧
    (Instr.select 3 0 1).text = "SELECT 3, 0, R" := by decide

/-! ## Wire bytes (vectors 2.1) -/

theorem test_comm_bytes : commByte 7 3 1 = 0x7B ∧ commByte 2 1 0 = 0x21 ∧ commByte 0 1 1 = 0x09 := by decide
theorem test_clock_bytes : clockByte 1 1 7 = 0x1B ∧ clockByte 0 0 4 = 0x00 ∧ clockByte 1 0 2 = 0x12 := by decide
theorem test_setup_bytes : setupByte 1 7 1 0 0 = 0x7C ∧ setupByte 3 3 1 1 1 = 0xDF ∧ setupByte 0 2 1 1 0 = 0x16 := by decide
theorem test_data_words : dataWord 0x12 0x34 = 0x1234 ∧ dataWord 0x00 0x40 = 64 ∧ dataWord 0xFF 0xFE = 65534 := by decide
theorem test_ready_bytes : readyByte 0x7F = true ∧ readyByte 0x80 = false ∧ readyByte 0x08 = true ∧ readyByte 0xA5 = false := by
  decide
/-- S7, S10: 825 is the document's; 3300 tells 65535 from 65536. -/
theorem test_scale : scale 0x4000 3300 = 825 ∧ scale 65535 3300 = 3300 ∧ scale 0 65535 = 0 ∧ scale 65535 65535 = 65535 := by
  decide

/-! ## Acceptance (R100) -/

/-- 2.3.1: the first step after a CONSTRUCT word is presented at power-on. -/
theorem test_construct_begins :
    after (step (State.reset.withFetchWord 32 0x00000000)) (fun t => (t.life, t.seq, t.cmds)) =
      some (.busy, some ⟨.construct, false, .k0⟩, []) := by decide
/-- 2.3.3. -/
theorem test_read_before_construct :
    after (step (State.reset.withFetchWord 32 0x50000000)) (fun t => (t.life, t.rsp, t.trace)) =
      some (.unbuilt, some ⟨.notConstructed, 0⟩, []) := by decide
/-- 2.3.2. -/
theorem test_construct_twice :
    after (step (idle .idle [0x00000000] [])) (fun t => (t.life, t.rsp)) = some (.ready, some ⟨.alreadyConstructed, 0⟩) := by decide
/-- 2.2: an illegal word while UNBUILT is IllegalCommand, while ABORTED it is Aborted. -/
theorem test_illegal_word :
    after (step (State.reset.withFetchWord 32 0xA0000000)) (·.rsp) = some (some ⟨.illegalCommand, 0⟩) ∧
    after (step (aborted [0xA0000000])) (·.rsp) = some (some ⟨.aborted, 0⟩) := by decide
/-- 2.2: 0x50000002 with NUM_CHANNELS = 2. -/
theorem test_illegal_channel :
    after (step { idle .idle [0x50000002] [] with cfg := { defaultConfig with numChannels := .two } }) (·.rsp) =
      some (some ⟨.illegalChannel, 0⟩) := by decide
theorem test_wrclk_out_of_order :
    after (step (idle .idle [0x20000001] [])) (fun t => (t.frame, t.rsp, t.trace)) =
      some (.idle, some ⟨.framingViolation, 0⟩, []) := by decide
/-- R103: a SELECT of a communication-register write is not IDLE. -/
theorem test_drdy_after_select_comm_write :
    after (step (idle (.framed 0 0 0) [0x70000000] [])) (·.rsp) = some (some ⟨.framingViolation, 0⟩) := by decide
/-- Without STRICT_FRAMING an out-of-order WRCLK runs. -/
theorem test_loose_wrclk_begins :
    after (step { idle .idle [0x20000001] [] with cfg := { defaultConfig with strictFraming := false } }) (·.seq) =
      some (some ⟨.wrclk 0 0 1, true, .w0⟩) := by decide

/-! ## One step of each command -/

theorem test_construct_k0 :
    after (exec .construct { running .construct .k0 .idle [.ok []] with cs := 0 }) (fun t => (t.cs, t.trace, t.seq)) =
      some (1, [], some ⟨.construct, false, .k1⟩) := by decide
theorem test_construct_k1 :
    after (exec .construct (running .construct .k1 .unknown [])) (fun t => (t.frame, t.life, t.rsp, t.seq)) =
      some (.idle, .ready, some ⟨.none, 0⟩, none) := by decide
/-- 2.3.4: `SELECT GAIN, 3, R` sends 0x7B. -/
theorem test_select :
    after (exec (.select 7 3 1) (running (.select 7 3 1) .s0 .idle [.ok [0xA5]])) (fun t => (t.trace, t.frame, t.rsp, t.cs)) =
      some ([⟨[0x7B], [0xA5]⟩], .framed 7 3 1, some ⟨.none, 0⟩, 1) := by decide
/-- R120: `WRCLK 0, 1, 5` sends 0x09. -/
theorem test_wrclk :
    after (exec (.wrclk 0 1 5) (running (.wrclk 0 1 5) .w0 (.framed 2 0 0) [.ok [0]])) (fun t => (t.trace, t.frame, t.rsp)) =
      some ([⟨[0x09], [0]⟩], .idle, some ⟨.none, 0⟩) := by decide
/-- R121: `WRSETUP 1, 7, 1, 0, 0` sends 0x7C; the ghost channel state stays. -/
theorem test_wrsetup :
    after (exec (.wrsetup 1 7 1 0 0) (running (.wrsetup 1 7 1 0 0) .t0 (.framed 1 0 0) [.ok [0]]))
      (fun t => (t.trace, t.frame, t.rsp, t.chan)) =
      some ([⟨[0x7C], [0]⟩], .idle, some ⟨.none, 0⟩, ⟨.uninit, .uninit, .uninit, .uninit⟩) := by decide
/-- R140: one transfer of two bytes, the first byte high. -/
theorem test_rdconv :
    after (exec .rdconv (running .rdconv .q0 (.framed 3 0 1) [.ok [0x40, 0x00]])) (fun t => (t.trace, t.frame, t.rsp)) =
      some ([⟨[0x00, 0x00], [0x40, 0x00]⟩], .idle, some ⟨.none, 0x4000⟩) := by decide
/-- R143: channel 1 polls with 0x09; the byte received there is not the status byte. -/
theorem test_drdy_y0 :
    after (exec (.drdy 1) (running (.drdy 1) .y0 .idle [.ok [0x00]])) (fun t => (t.trace, t.frame, t.seq)) =
      some ([⟨[0x09], [0x00]⟩], .framed 0 1 1, some ⟨.drdy 1, false, .y1⟩) := by decide
theorem test_drdy_y1 :
    after (exec (.drdy 1) (running (.drdy 1) .y1 (.framed 0 1 1) [.ok [0x7F]])) (fun t => (t.frame, t.rsp)) =
      some (.idle, some ⟨.none, 1⟩) ∧
    after (exec (.drdy 1) (running (.drdy 1) .y1 (.framed 0 1 1) [.ok [0x80]])) (·.rsp) = some (some ⟨.none, 0⟩) := by decide
/-- R141 L2, L3. -/
theorem test_read_frames_data :
    after (exec (.read 0) (running (.read 0) .l2 .idle [.ok [0]])) (fun t => (t.trace, t.frame)) =
      some ([⟨[0x38], [0]⟩], .framed 3 0 1) := by decide
theorem test_read_word :
    after (exec (.read 0) (running (.read 0) .l3 (.framed 3 0 1) [.ok [0x12, 0x34]])) (fun t => (t.frame, t.rsp, t.life)) =
      some (.idle, some ⟨.none, 0x1234⟩, .ready) := by decide
/-- R142: 0x4000 against 3300 is 825; the raw word is not returned. -/
theorem test_readv_scales :
    after (exec (.readv 0 3300) (running (.readv 0 3300) (.v1 0x4000) .idle [])) (·.rsp) = some (some ⟨.none, 825⟩) := by decide
/-- R145: the third unready poll of POLL_BOUND = 3 stops the command; the second does not. -/
theorem test_readv_poll_bound :
    after (exec (.readv 0 1) { running (.readv 0 1) (.l1 false) .idle [] with
      pollCount := 2, cfg := { defaultConfig with pollBound := some 3 } }) (fun t => (t.rsp, t.life, t.fault, t.pollCount)) =
      some (some ⟨.protocolTimeout, 0⟩, .ready, .none, 3) ∧
    after (exec (.readv 0 1) { running (.readv 0 1) (.l1 false) .idle [] with
      pollCount := 1, cfg := { defaultConfig with pollBound := some 3 } }) (·.seq) =
      some (some ⟨.readv 0 1, false, .l0y0⟩) := by decide
/-- R170: byte 99 is sent, a hundred and first is not. -/
theorem test_reset_last_byte :
    after (exec .reset (running .reset (.z1 99) .unknown [.ok [0]])) (fun t => (t.trace, t.seq)) =
      some ([⟨[0xFF], [0]⟩], some ⟨.reset, false, .z1 100⟩) ∧
    after (exec .reset (running .reset (.z1 100) .unknown [.ok [0]])) (fun t => (t.trace, t.seq)) =
      some ([], some ⟨.reset, false, .z2⟩) := by decide
theorem test_reset_z2 :
    after (exec .reset { running .reset .z2 .unknown [] with chan := ⟨.ready, .calibrating, .ready, .uninit⟩ })
      (fun t => (t.frame, t.chan, t.chip.pending, t.rsp)) =
      some (.idle, ⟨.uninit, .uninit, .uninit, .uninit⟩, .expectComm, some ⟨.none, 0⟩) := by decide
/-- R171 I1: the clock byte loses the rate's bit 2. -/
theorem test_init_clock_byte :
    after (exec (.init 2 1 0 0 4) (running (.init 2 1 0 0 4) .i1 (.framed 2 2 0) [.ok [0]])) (fun t => (t.trace, t.frame)) =
      some ([⟨[0x08], [0]⟩], .idle) := by decide
/-- R171 I3: `INIT 1, 1, 1, 3, 2` sends the setup byte 0x5C, and that channel alone is CALIBRATING. -/
theorem test_init_setup_byte :
    after (exec (.init 1 1 1 3 2) (running (.init 1 1 1 3 2) .i3 (.framed 1 1 0) [.ok [0]])) (fun t => (t.trace, t.chan)) =
      some ([⟨[0x5C], [0]⟩], ⟨.uninit, .calibrating, .uninit, .uninit⟩) := by decide
/-- R191: a failing transfer. -/
theorem test_transport_fault :
    after (exec (.read 0) (running (.read 0) .l2 .idle [.fail])) (fun t => (t.life, t.fault, t.rsp, t.trace)) =
      some (.aborted, .transportFault, some ⟨.transportFault, 0⟩, []) := by decide
/-- R232: a command asked to run while another is BUSY has no meaning. -/
theorem test_presented_while_busy : exec (.read 0) (running .reset .z0 .idle []) = .refused .presentedWhileBusy := by
  rfl

/-! ## Witnesses: each statement's hypotheses are met, clause by clause -/

/-- The transport completes its `k`-th act with the bytes the script gives. -/
theorem gives_of {s : State} {k n : Nat} {bytes rx : List Byte} (h : s.answer k = .ok bytes)
    (hr : rx = receive (s.draws + k) n bytes) : s.Gives k n rx := ⟨bytes, h, hr⟩

theorem witness_WireDecodersInvert : isCommByte 0x7B = true := by decide
theorem witness_DecodedWordIsTheCommandsWord : decode 0x9000FF03 = .ok (.init 3 1 1 7 7) := by decide
theorem witness_WordDecodesByItsRow :
    (0x7000_0003#32 &&& Row.drdy.mask = Row.drdy.pattern) ∧
    (∀ r ∈ Row.all, 0x90000004#32 &&& r.mask ≠ r.pattern) ∧ ¬ 0xA ≤ (0x90000004#32 >>> 28).toNat ∧
    (∀ r ∈ Row.all, 0xA0000000#32 &&& r.mask ≠ r.pattern) ∧ 0xA ≤ (0xA0000000#32 >>> 28).toNat := by decide

/-- An idle block meets the invariant. -/
theorem inv_idle {f : Frame} {cmds : List Word32} {script : List Answer} (hf : f ≠ .unknown) :
    (idle f cmds script).Inv where
  cfg := show defaultConfig.wf = true by decide
  seq_iff := by simp [idle, State.reset]
  seq_fits := by simp [idle, State.reset]
  fault_iff := by simp [idle, State.reset]
  cs_high := fun _ => rfl
  frame_known := fun _ => hf
  silent := fun _ => rfl
  polls := by simp [idle, State.reset, defaultConfig]
  trace_wf := by simp [idle, State.reset]
  chan_legal := fun ch _ => by rcases chan_cases ch with rfl | rfl | rfl | rfl <;> rfl
  rsp_wf := by simp [idle]
  rsp_some := fun _ => rfl

/-- A block at a label of a command that runs in order meets the invariant. -/
theorem inv_running {i : Instr} {l : Label} {f : Frame} {script : List Answer} (hf : f ≠ .unknown)
    (hb : l.belongs i = true) (hc : i.wf .four = true) (hff : frameFits defaultCodes.sel i f l) :
    (running i l f script).Inv where
  cfg := show defaultConfig.wf = true by decide
  seq_iff := by simp [running]
  seq_fits := by
    intro q hq
    cases hq
    exact ⟨hb, hc, by simp, fun _ => rfl, fun _ => hff⟩
  fault_iff := by simp [running, idle, State.reset]
  cs_high := fun _ => rfl
  frame_known := fun _ => hf
  silent := fun _ => rfl
  polls := by simp [running, idle, State.reset, defaultConfig]
  trace_wf := by simp [running, idle, State.reset]
  chan_legal := fun ch _ => by rcases chan_cases ch with rfl | rfl | rfl | rfl <;> rfl
  rsp_wf := by simp [running, idle]
  rsp_some := by simp [running]

theorem witness_EveryStepKeepsInvariant :
    (running (.read 1) .l3 (.framed 3 1 1) [.ok [1, 2]]).Inv ∧
    ∃ t, step (running (.read 1) .l3 (.framed 3 1 1) [.ok [1, 2]]) = .next t :=
  ⟨inv_running (by simp) rfl rfl ⟨1, rfl, rfl⟩, _, rfl⟩

theorem witness_FrameStaysTrueOfTheChip :
    (idle .idle [0x10000038] []).Inv ∧ (idle .idle [0x10000038] []).FrameTrue ∧
    (∀ q, (idle .idle [0x10000038] []).seq = some q → q.cmd ≠ .construct) ∧
    ∃ t, step (idle .idle [0x10000038] []) = .next t :=
  ⟨inv_idle (by simp), fun _ _ p hp => by cases hp; rfl, fun q hq => (by cases hq), _, rfl⟩

theorem witness_ConstructAndResetEstablishFrame :
    ((running .construct .k1 .idle []).At .construct false .k1 ∧ (running .construct .k1 .idle []).chip.pending = .expectComm) ∧
    (running .reset .z2 .unknown []).At .reset false .z2 :=
  ⟨⟨⟨rfl, rfl⟩, rfl⟩, rfl, rfl⟩

theorem witness_BlockIsNeverStuck : (running .reset (.z1 100) .idle []).Inv :=
  inv_running (by simp) rfl rfl trivial

theorem witness_StepRunsTheDecodedCommand :
    ((running (.drdy 0) .y0 .idle []).life = .busy ∧ (running (.drdy 0) .y0 .idle []).seq = some ⟨.drdy 0, false, .y0⟩) ∧
    ((idle .idle [0x70000000] []).life ≠ .busy ∧ decode 0x70000000 = .ok (.drdy 0)) ∧
    ((aborted [0xF0000000]).life = .aborted ∧ decode 0xF0000000 = .error .reservedOpcode) ∧
    ((idle .idle [0x00000001] []).life ≠ .busy ∧ decode 0x00000001 = .error .reservedBit) ∧
    ((idle .idle [] []).life ≠ .busy ∧ (idle .idle [] []).cmds = []) := by decide

theorem witness_TransferIsOneEvent :
    (idle .idle [] [.ok [7]]).Gives 0 ([0x38] : List Byte).length [7] ∧ (idle .idle [] [.fail]).answer 0 = .fail :=
  ⟨gives_of rfl rfl, rfl⟩

theorem witness_ChecksRefuseInOrder :
    (aborted []).life = .aborted ∧
    (State.reset.life = .unbuilt ∧ Instr.reset ≠ .construct) ∧
    (idle .idle [] []).life = .ready ∧
    ((Instr.drdy 2).channel? = some 2 ∧ ChannelCount.two.toNat ≤ (2#2 : Chan).toNat) ∧
    ((Instr.drdy 1).channel? = some 1 ∧ (1#2 : Chan).toNat < ChannelCount.two.toNat ∧
      frameOk defaultCodes.sel (.framed 3 0 1) (.drdy 1) = false ∧ defaultConfig.strictFraming = true) := by decide

theorem witness_PassingCommandBegins :
    (State.reset.life = .unbuilt ∧ frameOk defaultCodes.sel State.reset.frame .construct = true) ∧
    ((idle .idle [] []).life = .ready ∧ (3#2 : Chan).toNat < ChannelCount.four.toNat ∧
      frameOk defaultCodes.sel .idle (.init 3 0 0 0 1) = true) ∧
    (frameOk defaultCodes.sel .idle .rdconv = false ∧
      ({ defaultConfig with strictFraming := false } : Config).strictFraming = false) := by decide

theorem witness_RefusalChangesOnlyTheResponse :
    (stepRefuses (idle .idle [0x40000000] []) = true ∧ ∃ t, step (idle .idle [0x40000000] []) = .next t) ∧
    stepRefuses (State.reset.withFetchWord 32 0xF0000000) = true := ⟨⟨by decide, _, rfl⟩, by decide⟩

theorem witness_ConstructCompletes :
    (running .construct .k0 .idle [.ok []]).At .construct false .k0 ∧ (running .construct .k0 .idle [.ok []]).answer 0 = .ok [] ∧
    (running .construct .k1 .idle []).At .construct false .k1 := ⟨⟨rfl, rfl⟩, rfl, rfl, rfl⟩

theorem witness_SelectCompletes :
    (running (.select 7 3 1) .s0 .idle [.ok [9]]).At (.select 7 3 1) false .s0 ∧
    (running (.select 7 3 1) .s0 .idle [.ok [9]]).Gives 0 1 [9] := ⟨⟨rfl, rfl⟩, gives_of rfl rfl⟩

theorem witness_WrclkCompletes :
    (running (.wrclk 1 1 7) .w0 (.framed 2 0 0) [.ok [9]]).At (.wrclk 1 1 7) false .w0 ∧
    (running (.wrclk 1 1 7) .w0 (.framed 2 0 0) [.ok [9]]).Gives 0 1 [9] := ⟨⟨rfl, rfl⟩, gives_of rfl rfl⟩

theorem witness_WrsetupCompletes :
    (running (.wrsetup 3 7 1 1 1) .t0 (.framed 1 0 0) [.ok [9]]).At (.wrsetup 3 7 1 1 1) false .t0 ∧
    (running (.wrsetup 3 7 1 1 1) .t0 (.framed 1 0 0) [.ok [9]]).Gives 0 1 [9] := ⟨⟨rfl, rfl⟩, gives_of rfl rfl⟩

theorem witness_RdconvCompletes :
    (running .rdconv .q0 (.framed 3 0 1) [.ok [0xFF, 0xFE]]).At .rdconv false .q0 ∧
    (running .rdconv .q0 (.framed 3 0 1) [.ok [0xFF, 0xFE]]).Gives 0 2 [0xFF, 0xFE] := ⟨⟨rfl, rfl⟩, gives_of rfl rfl⟩

theorem witness_DrdyCompletes :
    ((running (.drdy 3) .y0 .idle [.ok [9]]).At (.drdy 3) false .y0 ∧ (running (.drdy 3) .y0 .idle [.ok [9]]).Gives 0 1 [9]) ∧
    (running (.drdy 3) .y1 (.framed 0 3 1) [.ok [0x80]]).At (.drdy 3) false .y1 ∧
    (running (.drdy 3) .y1 (.framed 0 3 1) [.ok [0x80]]).Gives 0 1 [0x80] :=
  ⟨⟨⟨rfl, rfl⟩, gives_of rfl rfl⟩, ⟨rfl, rfl⟩, gives_of rfl rfl⟩

theorem witness_ReadPollsThenFramesData :
    ((running (.read 2) .l0y0 .idle [.ok [9]]).At (.read 2) false .l0y0 ∧ (running (.read 2) .l0y0 .idle [.ok [9]]).Gives 0 1 [9]) ∧
    ((running (.readv 2 5) .l0y1 (.framed 0 2 1) [.ok [0]]).At (.readv 2 5) false .l0y1 ∧
      (running (.readv 2 5) .l0y1 (.framed 0 2 1) [.ok [0]]).Gives 0 1 [0]) ∧
    (running (.read 2) (.l1 true) .idle []).At (.read 2) false (.l1 true) ∧
    ((running (.readv 2 5) .l2 .idle [.ok [9]]).At (.readv 2 5) false .l2 ∧
      (running (.readv 2 5) .l2 .idle [.ok [9]]).Gives 0 1 [9]) :=
  ⟨⟨⟨rfl, rfl⟩, gives_of rfl rfl⟩, ⟨⟨rfl, rfl⟩, gives_of rfl rfl⟩, ⟨rfl, rfl⟩, ⟨rfl, rfl⟩, gives_of rfl rfl⟩

theorem witness_ReadCompletes :
    (running (.read 3) .l3 (.framed 3 3 1) [.ok [1, 2]]).At (.read 3) false .l3 ∧
    (running (.read 3) .l3 (.framed 3 3 1) [.ok [1, 2]]).Gives 0 2 [1, 2] := ⟨⟨rfl, rfl⟩, gives_of rfl rfl⟩

theorem witness_ReadvCompletes :
    ((running (.readv 3 9) .l3 (.framed 3 3 1) [.ok [1, 2]]).At (.readv 3 9) false .l3 ∧
      (running (.readv 3 9) .l3 (.framed 3 3 1) [.ok [1, 2]]).Gives 0 2 [1, 2]) ∧
    (running (.readv 3 9) (.v1 65535) .idle []).At (.readv 3 9) false (.v1 65535) :=
  ⟨⟨⟨rfl, rfl⟩, gives_of rfl rfl⟩, rfl, rfl⟩

theorem witness_ResetCompletes :
    (running .reset .z0 .unknown []).At .reset false .z0 ∧
    ((99 : Nat) < 100 ∧ (running .reset (.z1 99) .idle [.ok [9]]).At .reset false (.z1 99) ∧
      (running .reset (.z1 99) .idle [.ok [9]]).Gives 0 1 [9]) ∧
    (running .reset (.z1 100) .idle []).At .reset false (.z1 100) ∧ (running .reset .z2 .idle []).At .reset false .z2 :=
  ⟨⟨rfl, rfl⟩, ⟨by decide, ⟨rfl, rfl⟩, gives_of rfl rfl⟩, ⟨rfl, rfl⟩, rfl, rfl⟩

theorem witness_InitCompletes (l : Label) :
    (running (.init 3 1 1 7 7) l .idle [.ok [0x80]]).At (.init 3 1 1 7 7) false l ∧
    (running (.init 3 1 1 7 7) l .idle [.ok [0x80]]).Gives 0 1 [0x80] := ⟨⟨rfl, rfl⟩, gives_of rfl rfl⟩

theorem witness_UnreadyPollCountsAndLoops :
    ((running (.read 0) (.l1 false) .idle []).At (.read 0) false (.l1 false) ∧ defaultConfig.pollBound = none) ∧
    (running (.readv 0 1) (.l1 false) .idle []).At (.readv 0 1) false (.l1 false) ∧
    (running (.init 0 0 0 0 1) (.i5 false) .idle []).At (.init 0 0 0 0 1) false (.i5 false) ∧
    (running (.read 0) (.l1 false) .idle []).pollCount + 1 = 1 := ⟨⟨⟨rfl, rfl⟩, rfl⟩, ⟨rfl, rfl⟩, ⟨rfl, rfl⟩, rfl⟩

/-- A run's answers: `n` times the byte `b`, then the list. -/
def answers (n : Nat) (b : Byte) (rest : List Answer) : List Answer := List.replicate n (.ok [b]) ++ rest

theorem witness_ResetSendsHundredSyncBytes :
    (idle .unknown [encode .reset] (answers 100 9 [])).life = .ready ∧
    ∀ j < 100, (idle .unknown [encode .reset] (answers 100 9 [])).Gives j 1 [9] :=
  ⟨rfl, fun j hj => gives_of (bytes := [9]) (by
    have h : (List.replicate 100 (Answer.ok [9]))[j]? = some (.ok [9]) := List.getElem?_replicate_of_lt hj
    simp only [State.answer, idle, answers, List.append_nil, h]) rfl⟩

/-- One unready poll, then a ready one, then the data access: for READ, READV and READ's expansion. -/
def readRun (i : Instr) : State :=
  idle .idle [encode i] [.ok [5], .ok [0x80], .ok [6], .ok [0x00], .ok [7], .ok [0x12, 0x34]]

theorem witness_read_runs (i : Instr) (b : Option Nat) (hb : ∀ n, b = some n → 1 < n) :
    (readRun i).life = .ready ∧ (readRun i).frame = .idle ∧ (3#2 : Chan).toNat < (readRun i).cfg.numChannels.toNat ∧
    (∀ n, b = some n → 1 < n) ∧
    (readRun i).GivesPolls 0 2 (fun j => if j = 0 then 5 else 6) (fun j => if j = 0 then 0x80 else 0x00) ∧
    (∀ j < 1, (if j = 0 then (0x80 : Byte) else 0x00).getLsbD 7 = true) ∧
    (readRun i).Gives 4 1 [7] ∧ (readRun i).Gives 5 2 [0x12, 0x34] := by
  refine ⟨rfl, rfl, show 3 < 4 by decide, hb, ?_, by decide, gives_of rfl rfl, gives_of rfl rfl⟩
  intro j hj
  match j, hj with
  | 0, _ => exact ⟨gives_of rfl rfl, gives_of rfl rfl⟩
  | 1, _ => exact ⟨gives_of rfl rfl, gives_of rfl rfl⟩

theorem witness_ReadReturnsTheWordOnceReady :
    (readRun (.read 3)).cmds = encode (.read 3) :: [] ∧ ∀ n, (readRun (.read 3)).cfg.pollBound = some n → 1 < n :=
  ⟨rfl, fun n hn => by cases hn⟩

theorem witness_ReadvScalesTheWordOnceReady :
    (readRun (.readv 3 3300)).cmds = encode (.readv 3 3300) :: [] ∧
    ∀ n, (readRun (.readv 3 3300)).cfg.pollBound = some n → 1 < n := ⟨rfl, fun n hn => by cases hn⟩

/-- INIT with one unready poll, for INIT and its expansion. -/
def initRun : State :=
  idle .idle [encode (.init 1 0 0 0 1)]
    [.ok [1], .ok [2], .ok [3], .ok [4], .ok [5], .ok [0x80], .ok [6], .ok [0x00]]

theorem witness_InitBringsChannelUpOnceReady :
    initRun.life = .ready ∧ initRun.frame = .idle ∧ (1#2 : Chan).toNat < initRun.cfg.numChannels.toNat ∧
    initRun.cmds = encode (.init 1 0 0 0 1) :: [] ∧ (∀ n, initRun.cfg.pollBound = some n → 1 < n) ∧
    initRun.Gives 0 1 [1] ∧ initRun.Gives 1 1 [2] ∧ initRun.Gives 2 1 [3] ∧ initRun.Gives 3 1 [4] ∧
    initRun.GivesPolls 4 2 (fun j => if j = 0 then 5 else 6) (fun j => if j = 0 then 0x80 else 0x00) := by
  refine ⟨rfl, rfl, by decide, rfl, (fun n hn => by cases hn), gives_of rfl rfl, gives_of rfl rfl, gives_of rfl rfl,
    gives_of rfl rfl, ?_⟩
  intro j hj
  match j, hj with
  | 0, _ => exact ⟨gives_of rfl rfl, gives_of rfl rfl⟩
  | 1, _ => exact ⟨gives_of rfl rfl, gives_of rfl rfl⟩

theorem witness_UnreadyChipHangsTheCommand :
    (running (.read 0) .l0y0 .idle (answers 4 0xFF [])).At (.read 0) false .l0y0 ∧
    (running (.read 0) .l0y0 .idle (answers 4 0xFF [])).cfg.pollBound = none ∧
    (running (.read 0) .l0y0 .idle (answers 4 0xFF [])).GivesPolls 0 2 (fun _ => 0xFF) (fun _ => 0xFF) ∧
    (0xFF#8).getLsbD 7 = true := by
  refine ⟨⟨rfl, rfl⟩, rfl, ?_, by decide⟩
  intro j hj
  match j, hj with
  | 0, _ => exact ⟨gives_of rfl rfl, gives_of rfl rfl⟩
  | 1, _ => exact ⟨gives_of rfl rfl, gives_of rfl rfl⟩

/-- POLL_BOUND = 1, the least legal. -/
def boundedRun (i : Instr) (p : Label) : State :=
  { running i p .idle (answers 2 0xFF []) with cfg := { defaultConfig with pollBound := some 1 } }

theorem witness_BoundedPollTimesOut (i : Instr) (p : Label) :
    (boundedRun i p).At i false p ∧ (boundedRun i p).pollCount = 0 ∧ (boundedRun i p).cfg.pollBound = some 1 ∧
    (boundedRun i p).GivesPolls 0 1 (fun _ => 0xFF) (fun _ => 0xFF) := by
  refine ⟨⟨rfl, rfl⟩, rfl, rfl, ?_⟩
  intro j hj
  match j, hj with
  | 0, _ => exact ⟨gives_of rfl rfl, gives_of rfl rfl⟩

theorem witness_TransportFaultAborts :
    (running (.init 0 0 0 0 1) .i3 (.framed 1 0 0) [.fail]).life = .busy ∧
    (Label.i3).belongs (.init 0 0 0 0 1) = true ∧ (Label.i3).acts = true ∧
    (running (.init 0 0 0 0 1) .i3 (.framed 1 0 0) [.fail]).answer 0 = .fail ∧
    (Label.k0).belongs .construct = true ∧ (Label.k0).acts = true := by decide

theorem witness_OnlyTransportFailureSetsFault :
    ((aborted [0x50000000]).fault = .transportFault ∧ ∃ t, step (aborted [0x50000000]) = .next t) ∧
    ((running (.read 0) .l2 .idle [.fail]).fault = .none ∧ ∃ t, step (running (.read 0) .l2 .idle [.fail]) = .next t) :=
  ⟨⟨rfl, _, rfl⟩, rfl, _, rfl⟩

theorem witness_AbortedIsForEver :
    (aborted [0x80000000]).life = .aborted ∧ (aborted [0x80000000]).cmds = 0x80000000 :: [] ∧ (aborted []).cmds = [] :=
  ⟨rfl, rfl, rfl⟩

/-- Each transition of R21 happens. -/
theorem witness_LifeTransitions :
    (∃ t, step (State.reset.withFetchWord 32 0) = .next t ∧ t.life = .busy) ∧
    (∃ t, step (idle .idle [0x80000000] []) = .next t ∧ t.life = .busy) ∧
    (∃ t, step (running (.readv 0 1) (.v1 5) .idle []) = .next t ∧ t.life = .ready) ∧
    (∃ t, step (running (.read 0) .l2 .idle [.fail]) = .next t ∧ t.life = .aborted) :=
  ⟨⟨_, rfl, rfl⟩, ⟨_, rfl, rfl⟩, ⟨_, rfl, rfl⟩, _, rfl, rfl⟩

theorem witness_TraceGrowsByCompletedTransfers :
    after (step (running .rdconv .q0 (.framed 3 0 1) [.ok [1, 2]])) (·.trace) = some [⟨[0, 0], [1, 2]⟩] := by decide

/-- A framing transfer and a data phase. -/
theorem witness_EveryTransferIsFramed :
    ((running (.drdy 0) .y0 .idle [.ok [1]]).Inv ∧ ∃ t, step (running (.drdy 0) .y0 .idle [.ok [1]]) = .next t ∧ t.trace ≠ []) ∧
    ((running (.drdy 0) .y1 (.framed 0 0 1) [.ok [1]]).Inv ∧
      ∃ t, step (running (.drdy 0) .y1 (.framed 0 0 1) [.ok [1]]) = .next t ∧ t.trace ≠ []) :=
  ⟨⟨inv_running (by simp) rfl rfl rfl, _, rfl, by decide⟩, inv_running (by simp) rfl rfl ⟨0, rfl, rfl⟩, _, rfl, by decide⟩

theorem witness_OnlyTransportActsMoveChipSelect :
    after (step { running .construct .k0 .idle [.ok []] with cs := 0 }) (·.cs) = some 1 := by decide

/-- Each of the four changes happens. -/
theorem witness_OnlyInitAndResetMoveChannelState :
    after (step { running .construct .k1 .idle [] with chan := ⟨.ready, .ready, .ready, .ready⟩ }) (·.chan.get 0) = some .uninit ∧
    after (step { running .reset .z2 .idle [] with chan := ⟨.ready, .ready, .ready, .ready⟩ }) (·.chan.get 3) = some .uninit ∧
    after (step (running (.init 1 0 0 0 1) .i3 (.framed 1 1 0) [.ok [0]])) (·.chan.get 1) = some .calibrating ∧
    after (step (running (.init 1 0 0 0 1) .i6 .idle [])) (·.chan.get 1) = some .ready := by decide

theorem witness_BlockNeverReadsTraceChanOrChip :
    ∃ t, step (running (.init 1 0 0 0 1) .i3 (.framed 1 1 0) [.ok [0]]) = .next t := ⟨_, rfl⟩

theorem witness_ParametersNeverChange : ∃ t, step (running .reset .z2 .unknown []) = .next t := ⟨_, rfl⟩

theorem witness_StrictFramingRefusesSecondFraming :
    (idle (.framed 3 0 1) [] []).life = .ready ∧ (idle (.framed 3 0 1) [] []).frame = .framed 3 0 1 ∧
    (idle (.framed 3 0 1) [] []).cfg.strictFraming = true ∧ (3#2 : Chan).toNat < ChannelCount.four.toNat := by decide

/-- An out-of-order RDCONV that completes, its in-order twin, and a command begun from UNKNOWN. -/
theorem witness_OutOfOrderCommandRunsAsWritten :
    ((running .rdconv .q0 .idle [.ok [1, 2]]).At .rdconv false .q0 ∧ ∃ t, step (running .rdconv .q0 .idle [.ok [1, 2]]) = .next t) ∧
    (∃ t, step { running .rdconv .q0 .idle [.ok [1, 2]] with seq := some ⟨.rdconv, true, .q0⟩ } = .next t ∧ t.life = .ready) ∧
    ((idle .unknown [] []).life = .ready ∧ (idle .unknown [] []).frame = .unknown ∧
      ({ defaultConfig with strictFraming := false } : Config).strictFraming = false) :=
  ⟨⟨⟨rfl, rfl⟩, _, rfl⟩, ⟨_, rfl, rfl⟩, rfl, rfl, rfl⟩

theorem witness_ScalingLaw : (0x4000#16).toNat ≤ (0x4001#16).toNat ∧ (3300#16).toNat ≤ (3300#16).toNat := by decide

/-- A chip in each pending operation the clauses name. -/
theorem witness_ChipFollowsItsContract :
    defaultCodes.wf = true ∧ Chip.powerOn.pending = .expectComm ∧
    ({ Chip.powerOn with pending := .op 2 3 0 } : Chip).pending = .op defaultCodes.sel.clock 3 0 ∧
    ({ Chip.powerOn with pending := .op 1 3 0 } : Chip).pending = .op defaultCodes.sel.setup 3 0 ∧
    (0x40#8).extractLsb' 6 2 = defaultCodes.mode.selfCal ∧
    ({ Chip.powerOn with pending := .op 0 3 1 } : Chip).pending = .op defaultCodes.sel.comm 3 1 ∧
    ({ Chip.powerOn with pending := .op 3 3 1 } : Chip).pending = .op defaultCodes.sel.data 3 1 := by decide

end Sys2Proof.Tests
end

section
/-! PROOFS. The scope of the block (spec 00_scope.md): a transfer is one event, no step changes a parameter, and the block
never reads `trace`, `chan` or the chip. -/

namespace Sys2Proof.Machine

/-! ## The transfer (R8, R28, R191) -/

/-- Settles O17: the two cases of a transfer, completed and failed. -/
theorem transferIsOneEvent : Obligations.TransferIsOneEvent :=
  fun _ _ k => ⟨fun _ hg => ⟨xfer_gives hg k, gives_length hg⟩, fun hf => xfer_fail hf _ k⟩

/-! ## The parameters (R6) -/

/-- No step of a running command changes a parameter. -/
theorem bodyOf_cfg {q : MicroSeq} {s t : State} (h : bodyOf q.cmd q s = some t) : t.cfg = s.cfg := by
  rcases bodyOf_cases h with ⟨-, -, rfl⟩ | ⟨-, -, -, rfl⟩ | ⟨-, -, -, -, _, _, -, -, ht⟩ | ⟨-, -, -, ht⟩
  · rfl
  · rfl
  · exact (congrArg State.cfg ht).trans rfl
  · exact (congrArg State.cfg ht).trans rfl

/-- Settles O53: waiting, a refusal and an acceptance keep the parameters, and so does every step of a running command. -/
theorem parametersNeverChange : Obligations.ParametersNeverChange := by
  intro s t h
  rcases step_cases h with ⟨-, -, rfl⟩ | ⟨_, _, -, -, -, rfl⟩ | ⟨_, _, _, _, -, -, -, -, rfl⟩ |
    ⟨_, _, _, -, -, -, -, rfl⟩ | ⟨q, -, -, hb⟩
  · rfl
  · rfl
  · rfl
  · rfl
  · exact bodyOf_cfg hb

/-! ## What the block never reads (R13, R28, R40, R64, R193) -/

/-- From `s`, the update `f` appends some events to `trace`, and with any other `trace`, `chan` and chip it appends the same
events and gives the same state but for the three; `chan` after it depends neither on `trace` nor on the chip. -/
def IgnoresUnread (f : State → State) (s : State) : Prop :=
  ∃ events, (f s).trace = s.trace ++ events ∧
    ∀ chan : PerChan ChanState, ∃ chan', ∀ (tr : List XferEvent) (chip : Chip), ∃ chip',
      f (s.withUnread tr chan chip) = (f s).withUnread (tr ++ events) chan' chip'

/-- An update that agrees with `f` on every state that differs from `s` in the three alone (`s` itself is one). -/
theorem IgnoresUnread.congr {f f' : State → State} {s : State} (hf : IgnoresUnread f s)
    (h : ∀ tr chan chip, f' (s.withUnread tr chan chip) = f (s.withUnread tr chan chip)) : IgnoresUnread f' s := by
  have hs : f' s = f s := h s.trace s.chan s.chip
  simpa only [IgnoresUnread, h, hs] using hf

/-- One update after another: the events of both, in order. -/
theorem IgnoresUnread.comp {f g : State → State} {s : State} (hg : IgnoresUnread g (f s)) (hf : IgnoresUnread f s) :
    IgnoresUnread (fun s => g (f s)) s := by
  obtain ⟨ev, htr, hf⟩ := hf
  obtain ⟨ev', htr', hg⟩ := hg
  refine ⟨ev ++ ev', by rw [htr', htr, List.append_assoc], fun chan => ?_⟩
  obtain ⟨chan₁, hf⟩ := hf chan
  obtain ⟨chan₂, hg⟩ := hg chan₁
  refine ⟨chan₂, fun tr chip => ?_⟩
  obtain ⟨chip₁, hf⟩ := hf tr chip
  obtain ⟨chip₂, hg⟩ := hg (tr ++ ev) chip₁
  exact ⟨chip₂, (congrArg g hf).trans (hg.trans (by rw [List.append_assoc]))⟩

/-- An update that appends no event and sends `chan` through `g`, whatever it does to the chip. -/
theorem ignoresUnread_of_silent {f : State → State} {s : State} (g : PerChan ChanState → PerChan ChanState)
    (ht : (f s).trace = s.trace)
    (h : ∀ tr chan chip, ∃ chip', f (s.withUnread tr chan chip) = (f s).withUnread tr (g chan) chip') :
    IgnoresUnread f s := by
  refine ⟨[], by rw [ht, List.append_nil], fun chan => ⟨g chan, fun tr chip => ?_⟩⟩
  rw [List.append_nil]
  exact h tr chan chip

/-- An update that touches none of the three. -/
theorem ignoresUnread_of_keeps {f : State → State} {s : State} (ht : (f s).trace = s.trace)
    (h : ∀ tr chan chip, f (s.withUnread tr chan chip) = (f s).withUnread tr chan chip) : IgnoresUnread f s :=
  ignoresUnread_of_silent id ht fun tr chan chip => ⟨chip, h tr chan chip⟩

theorem ite_ignoresUnread {c : Prop} [Decidable c] {f g : State → State} {s : State} (hf : IgnoresUnread f s)
    (hg : IgnoresUnread g s) : IgnoresUnread (fun s => if c then f s else g s) s := by
  by_cases hc : c
  · simpa only [if_pos hc] using hf
  · simpa only [if_neg hc] using hg

/-! ### The shared operations -/

theorem goto_ignoresUnread (q : MicroSeq) (l : Label) (s : State) : IgnoresUnread (fun s => s.goto q l) s :=
  ignoresUnread_of_keeps rfl fun _ _ _ => rfl

theorem complete_ignoresUnread (f : Frame) (d : Word32) (s : State) : IgnoresUnread (fun s => s.complete f d) s :=
  ignoresUnread_of_keeps rfl fun _ _ _ => rfl

theorem frame_ignoresUnread (f : Frame) (s : State) : IgnoresUnread (fun s => { s with frame := f }) s :=
  ignoresUnread_of_keeps rfl fun _ _ _ => rfl

theorem goto_frame_ignoresUnread (f : Frame) (q : MicroSeq) (l : Label) (s : State) :
    IgnoresUnread (fun s => { s with frame := f }.goto q l) s :=
  (goto_ignoresUnread q l _).comp (frame_ignoresUnread f s)

theorem transportFault_ignoresUnread (s : State) : IgnoresUnread State.transportFault s :=
  ignoresUnread_of_silent id rfl fun _ _ _ => ⟨freeChip s.draws, rfl⟩

theorem exchanged_ignoresUnread (tx rx : List Byte) (s : State) : IgnoresUnread (fun s => s.exchanged tx rx) s :=
  ⟨[⟨tx, rx⟩], rfl, fun chan => ⟨chan, fun _ chip => ⟨chip.transfer s.cfg.codes s.draws tx rx, rfl⟩⟩⟩

/-- A transfer whose bytes depend on the parameters alone: whether it completes and what it receives is the transport's. -/
theorem xfer_ignoresUnread (tx : Config → List Byte) {k : List Byte → State → State}
    (hk : ∀ rx s, IgnoresUnread (k rx) s) (s : State) : IgnoresUnread (fun s => xfer (tx s.cfg) k s) s := by
  rcases fail_or_gives s (tx s.cfg).length with hf | ⟨rx, hg⟩
  · exact (transportFault_ignoresUnread s).congr fun tr chan chip =>
      xfer_fail (s := s.withUnread tr chan chip) hf _ k
  · exact ((hk rx _).comp (exchanged_ignoresUnread (tx s.cfg) rx s)).congr fun tr chan chip =>
      xfer_gives (s := s.withUnread tr chan chip) hg k

theorem frameAccess_ignoresUnread (sel : Config → Sel) (ch : Chan) (dir : Bit) (next : Label) (q : MicroSeq) (s : State) :
    IgnoresUnread (fun s => frameAccess (sel s.cfg) ch dir next q s) s :=
  xfer_ignoresUnread (fun c => [commByte (sel c) ch dir]) (fun _ => goto_frame_ignoresUnread _ q next) s

theorem pollFrame_ignoresUnread (ch : Chan) (next : Label) (q : MicroSeq) (s : State) :
    IgnoresUnread (pollFrame ch next q) s :=
  frameAccess_ignoresUnread (fun c => c.codes.sel.comm) ch 1 next q s

theorem pollRead_ignoresUnread {k : Bool → State → State} (hk : ∀ r s, IgnoresUnread (k r) s) (s : State) :
    IgnoresUnread (pollRead k) s :=
  xfer_ignoresUnread (fun c => [c.dummyTx])
    (fun rx s => (hk (readyByte (rx.headD 0)) _).comp (frame_ignoresUnread .idle s)) s

theorem readWord_ignoresUnread {k : Word16 → State → State} (hk : ∀ w s, IgnoresUnread (k w) s) (s : State) :
    IgnoresUnread (readWord k) s :=
  xfer_ignoresUnread (fun c => [c.dummyTx, c.dummyTx]) (fun _ => hk _) s

theorem pollAgain_ignoresUnread (p : Label) (q : MicroSeq) (s : State) : IgnoresUnread (pollAgain p q) s :=
  ignoresUnread_of_keeps (pollAgain_trace s p q) fun tr chan chip => pollAgain_withUnread s tr chan chip p q

theorem driveCsHigh_ignoresUnread {k : State → State} (hk : ∀ s, IgnoresUnread k s) (s : State) :
    IgnoresUnread (driveCsHigh k) s := by
  cases ha : s.answer 0 with
  | fail =>
    exact (transportFault_ignoresUnread s).congr fun tr chan chip =>
      driveCsHigh_fail (s := s.withUnread tr chan chip) ha k
  | ok bytes =>
    have hd : IgnoresUnread (fun s => { s.drew with cs := 1 }) s := ignoresUnread_of_keeps rfl fun _ _ _ => rfl
    exact ((hk _).comp hd).congr fun tr chan chip => driveCsHigh_ok (s := s.withUnread tr chan chip) ha k

/-! ### The commands, label by label -/

/-- A command's step at one label: no meaning there, or an update that ignores the three. -/
def BodyIgnoresUnread (body : State → Option State) : Prop :=
  (∀ s, body s = none) ∨ ∃ f, (∀ s, IgnoresUnread f s) ∧ ∀ s, body s = some (f s)

theorem constructBody_ignoresUnread (q : MicroSeq) : BodyIgnoresUnread (constructBody q) := by
  obtain ⟨i, v, l⟩ := q
  cases l with
  | k0 => exact .inr ⟨_, driveCsHigh_ignoresUnread (goto_ignoresUnread _ _), fun _ => rfl⟩
  | k1 =>
    refine .inr ⟨_, fun s => ?_, fun _ => rfl⟩
    exact ignoresUnread_of_silent (fun _ => .replicate .uninit) rfl fun _ _ chip => ⟨chip, rfl⟩
  | _ => exact .inl fun _ => rfl

theorem selectBody_ignoresUnread (sel : Sel) (ch : Chan) (dir : Bit) (q : MicroSeq) :
    BodyIgnoresUnread (selectBody sel ch dir q) := by
  obtain ⟨i, v, l⟩ := q
  cases l with
  | s0 =>
    exact .inr ⟨_, xfer_ignoresUnread (fun _ => [commByte sel ch dir]) fun _ => complete_ignoresUnread _ _,
      fun _ => rfl⟩
  | _ => exact .inl fun _ => rfl

theorem wrclkBody_ignoresUnread (clkdis div : Bit) (rate : BitVec 3) (q : MicroSeq) :
    BodyIgnoresUnread (wrclkBody clkdis div rate q) := by
  obtain ⟨i, v, l⟩ := q
  cases l with
  | w0 =>
    exact .inr ⟨_, xfer_ignoresUnread (fun _ => [clockByte clkdis div rate]) fun _ => complete_ignoresUnread _ _,
      fun _ => rfl⟩
  | _ => exact .inl fun _ => rfl

theorem wrsetupBody_ignoresUnread (mode : BitVec 2) (gain : BitVec 3) (pol buf fsync : Bit) (q : MicroSeq) :
    BodyIgnoresUnread (wrsetupBody mode gain pol buf fsync q) := by
  obtain ⟨i, v, l⟩ := q
  cases l with
  | t0 =>
    exact .inr ⟨_, xfer_ignoresUnread (fun _ => [setupByte mode gain pol buf fsync]) fun _ => complete_ignoresUnread _ _,
      fun _ => rfl⟩
  | _ => exact .inl fun _ => rfl

theorem rdconvBody_ignoresUnread (q : MicroSeq) : BodyIgnoresUnread (rdconvBody q) := by
  obtain ⟨i, v, l⟩ := q
  cases l with
  | q0 => exact .inr ⟨_, readWord_ignoresUnread fun _ => complete_ignoresUnread _ _, fun _ => rfl⟩
  | _ => exact .inl fun _ => rfl

/-- The labels READ and READV share, whatever ends the command. -/
theorem readLabels_ignoresUnread (ch : Chan) {k : Word16 → State → State} (hk : ∀ w s, IgnoresUnread (k w) s)
    (q : MicroSeq) : BodyIgnoresUnread (readLabels ch k q) := by
  obtain ⟨i, v, l⟩ := q
  cases l with
  | l0y0 => exact .inr ⟨_, pollFrame_ignoresUnread _ _ _, fun _ => rfl⟩
  | l0y1 => exact .inr ⟨_, pollRead_ignoresUnread fun _ => goto_ignoresUnread _ _, fun _ => rfl⟩
  | l1 ready =>
    exact .inr ⟨_, fun s => ite_ignoresUnread (goto_ignoresUnread _ _ s) (pollAgain_ignoresUnread _ _ s), fun _ => rfl⟩
  | l2 => exact .inr ⟨_, frameAccess_ignoresUnread (fun c => c.codes.sel.data) _ _ _ _, fun _ => rfl⟩
  | l3 => exact .inr ⟨_, readWord_ignoresUnread hk, fun _ => rfl⟩
  | _ => exact .inl fun _ => rfl

theorem readBody_ignoresUnread (ch : Chan) (q : MicroSeq) : BodyIgnoresUnread (readBody ch q) :=
  readLabels_ignoresUnread ch (fun _ => complete_ignoresUnread _ _) q

theorem readvBody_ignoresUnread (ch : Chan) (reference : Word16) (q : MicroSeq) :
    BodyIgnoresUnread (readvBody ch reference q) := by
  have shared := readLabels_ignoresUnread ch (fun raw => goto_frame_ignoresUnread .idle q (.v1 raw)) q
  obtain ⟨i, v, l⟩ := q
  cases l with
  | v1 raw => exact .inr ⟨_, complete_ignoresUnread _ _, fun _ => rfl⟩
  | _ => exact shared

theorem drdyBody_ignoresUnread (ch : Chan) (q : MicroSeq) : BodyIgnoresUnread (drdyBody ch q) := by
  obtain ⟨i, v, l⟩ := q
  cases l with
  | y0 => exact .inr ⟨_, pollFrame_ignoresUnread _ _ _, fun _ => rfl⟩
  | y1 => exact .inr ⟨_, pollRead_ignoresUnread fun _ => complete_ignoresUnread _ _, fun _ => rfl⟩
  | _ => exact .inl fun _ => rfl

theorem resetBody_ignoresUnread (q : MicroSeq) : BodyIgnoresUnread (resetBody q) := by
  obtain ⟨i, v, l⟩ := q
  cases l with
  | z0 => exact .inr ⟨_, goto_ignoresUnread _ _, fun _ => rfl⟩
  | z1 n =>
    exact .inr ⟨_, fun s => ite_ignoresUnread (xfer_ignoresUnread (fun _ => [syncByte]) (fun _ => goto_ignoresUnread _ _) s)
      (goto_ignoresUnread _ _ s), fun _ => rfl⟩
  | z2 =>
    refine .inr ⟨_, fun s => ?_, fun _ => rfl⟩
    exact ignoresUnread_of_silent (fun _ => .replicate .uninit) rfl fun _ _ _ => ⟨resyncChip s.draws, rfl⟩
  | _ => exact .inl fun _ => rfl

theorem initBody_ignoresUnread (ch : Chan) (div pol : Bit) (gain rate : BitVec 3) (q : MicroSeq) :
    BodyIgnoresUnread (initBody ch div pol gain rate q) := by
  obtain ⟨i, v, l⟩ := q
  cases l with
  | i0 => exact .inr ⟨_, frameAccess_ignoresUnread (fun c => c.codes.sel.clock) _ _ _ _, fun _ => rfl⟩
  | i1 =>
    exact .inr ⟨_, xfer_ignoresUnread (fun _ => [clockByte 0 div rate]) fun _ => goto_frame_ignoresUnread _ _ _,
      fun _ => rfl⟩
  | i2 => exact .inr ⟨_, frameAccess_ignoresUnread (fun c => c.codes.sel.setup) _ _ _ _, fun _ => rfl⟩
  | i3 =>
    refine .inr ⟨_, xfer_ignoresUnread (fun c => [setupByte c.codes.mode.selfCal gain pol 0 0]) fun _ s => ?_, fun _ => rfl⟩
    exact ignoresUnread_of_silent (·.set ch .calibrating) rfl fun _ _ chip => ⟨chip, rfl⟩
  | i4y0 => exact .inr ⟨_, pollFrame_ignoresUnread _ _ _, fun _ => rfl⟩
  | i4y1 => exact .inr ⟨_, pollRead_ignoresUnread fun _ => goto_ignoresUnread _ _, fun _ => rfl⟩
  | i5 ready =>
    exact .inr ⟨_, fun s => ite_ignoresUnread (goto_ignoresUnread _ _ s) (pollAgain_ignoresUnread _ _ s), fun _ => rfl⟩
  | i6 =>
    refine .inr ⟨_, fun s => ?_, fun _ => rfl⟩
    exact ignoresUnread_of_silent (·.set ch .ready) rfl fun _ _ chip => ⟨chip, rfl⟩
  | _ => exact .inl fun _ => rfl

theorem bodyOf_ignoresUnread (i : Instr) (q : MicroSeq) : BodyIgnoresUnread (bodyOf i q) := by
  cases i with
  | construct => exact constructBody_ignoresUnread q
  | select sel ch dir => exact selectBody_ignoresUnread sel ch dir q
  | wrclk clkdis div rate => exact wrclkBody_ignoresUnread clkdis div rate q
  | wrsetup mode gain pol buf fsync => exact wrsetupBody_ignoresUnread mode gain pol buf fsync q
  | rdconv => exact rdconvBody_ignoresUnread q
  | read ch => exact readBody_ignoresUnread ch q
  | readv ch reference => exact readvBody_ignoresUnread ch reference q
  | drdy ch => exact drdyBody_ignoresUnread ch q
  | reset => exact resetBody_ignoresUnread q
  | init ch div pol gain rate => exact initBody_ignoresUnread ch div pol gain rate q

/-! ### The machine's step -/

/-- Presenting a command's word: its acceptance or its refusal. -/
theorem accept_ignoresUnread (i : Instr) (rest : List Word32) (s : State) :
    IgnoresUnread (fun s => accept i { s with cmds := rest }) s :=
  ignoresUnread_of_keeps (accept_trace _ i) fun tr chan chip => accept_withUnread { s with cmds := rest } tr chan chip i

theorem step_presents_withUnread {s : State} {w : Word32} {rest : List Word32} {i : Instr} (hl : s.life ≠ .busy)
    (hc : s.cmds = w :: rest) (hd : decode w = .ok i) (tr : List XferEvent) (chan : PerChan ChanState) (chip : Chip) :
    step (s.withUnread tr chan chip) = .next (accept i { s.withUnread tr chan chip with cmds := rest }) :=
  (step_presents (s := s.withUnread tr chan chip) hl hc hd).trans
    (exec_idle (s := { s.withUnread tr chan chip with cmds := rest }) hl i)

/-- A step that answers a next state is one update on all the states that differ in the three alone, and it ignores them. -/
theorem step_eq_ignoresUnread {s t : State} (h : step s = .next t) : ∃ f, IgnoresUnread f s ∧
    ∀ tr chan chip, step (s.withUnread tr chan chip) = .next (f (s.withUnread tr chan chip)) := by
  rcases step_cases h with ⟨hl, hc, -⟩ | ⟨w, rest, hl, hc, ⟨r, hd⟩, -⟩ | ⟨w, rest, i, e, hl, hc, hd, -⟩ |
    ⟨w, rest, i, hl, hc, hd, -⟩ | ⟨q, hl, hq, hb⟩
  · exact ⟨id, ignoresUnread_of_keeps rfl fun _ _ _ => rfl, fun tr chan chip =>
      step_waits (s := s.withUnread tr chan chip) hl hc⟩
  · exact ⟨fun s => { s with cmds := rest }.refuseIllegal, ignoresUnread_of_keeps rfl fun _ _ _ => rfl,
      fun tr chan chip => step_illegal (s := s.withUnread tr chan chip) hl hc hd⟩
  · exact ⟨_, accept_ignoresUnread i rest s, step_presents_withUnread hl hc hd⟩
  · exact ⟨_, accept_ignoresUnread i rest s, step_presents_withUnread hl hc hd⟩
  · rcases bodyOf_ignoresUnread q.cmd q with hn | ⟨f, hf, hsome⟩
    · rw [hn] at hb
      cases hb
    · exact ⟨f, hf s, fun tr chan chip => (step_running (s := s.withUnread tr chan chip) hl hq).trans
        (exec_running hl hq rfl (hsome _))⟩

/-- Settles O52: every step is an update that ignores the three, and `s` itself is one of the states it is compared on. -/
theorem blockNeverReadsTraceChanOrChip : Obligations.BlockNeverReadsTraceChanOrChip := by
  intro s t h
  obtain ⟨f, ⟨events, htr, hf⟩, hstep⟩ := step_eq_ignoresUnread h
  have ht : t = f s := by
    have hs : step s = .next (f s) := hstep s.trace s.chan s.chip
    rw [h] at hs
    cases hs
    rfl
  subst ht
  refine ⟨events, htr, fun chan => ?_⟩
  obtain ⟨chan', hf⟩ := hf chan
  refine ⟨chan', fun tr chip => ?_⟩
  obtain ⟨chip', hf⟩ := hf tr chip
  exact ⟨chip', by rw [hstep, hf]⟩

end Sys2Proof.Machine
end

section
/-! PROOFS. What one step of the machine can do, read off its kind, and how a running command moves: the label it goes to,
the frame it leaves, the polls it counts, the response it ends with. -/

namespace Sys2Proof.Machine

/-! ## The four kinds of step -/

/-- A step of a running command whose act, if it makes one, the transport completes. -/
def Succeeds (q : MicroSeq) (s t : State) : Prop := Drives q s t ∨ Exchanges q s t ∨ Updates q s t

/-- Everything one step can do, by kind. -/
inductive StepKind (s t : State) : Prop
  /-- The host has no word, or the block refuses it: `rsp` alone can change (R195), to a code without data (R93). -/
  | idles (hl : s.life ≠ .busy) (cmds : List Word32) (rsp : Option Rsp) (hr : rsp = s.rsp ∨ ∃ e, rsp = some ⟨e, 0⟩)
      (ht : t = { s with cmds := cmds, rsp := rsp })
  /-- A command passes every check (R100). -/
  | begins (hl : s.life ≠ .busy) (i : Instr) (rest : List Word32) (hr : refusalOf s i = none)
      (ht : t = { s with cmds := rest }.begin i)
  /-- The transport fails the running command's act (R191). -/
  | fails (q : MicroSeq) (hl : s.life = .busy) (hq : s.seq = some q) (hs : Fails q s t)
  /-- The running command takes the step at its label. -/
  | succeeds (q : MicroSeq) (hl : s.life = .busy) (hq : s.seq = some q) (hb : bodyOf q.cmd q s = some t)
      (hs : Succeeds q s t)

theorem step_kind {s t : State} (h : step s = .next t) : StepKind s t := by
  rcases step_cases h with ⟨hl, -, ht⟩ | ⟨_, rest, hl, -, -, ht⟩ | ⟨_, rest, _, _, hl, -, -, -, ht⟩ |
    ⟨_, rest, i, hl, -, -, hr, ht⟩ | ⟨q, hl, hq, hb⟩
  · exact .idles hl s.cmds s.rsp (.inl rfl) ht
  · exact .idles hl rest _ (.inr ⟨_, rfl⟩) ht
  · exact .idles hl rest _ (.inr ⟨_, rfl⟩) ht
  · exact .begins hl i rest hr ht
  · exact (bodyOf_cases hb).elim (.fails q hl hq) (.succeeds q hl hq hb)

/-! ## What a step that succeeds does to each field -/

section
variable {q : MicroSeq} {s t : State}

theorem Succeeds.goesOn (hl : s.life = .busy) (h : Succeeds q s t) :
    (t.life = .busy ∧ t.rsp = s.rsp ∧ ∃ l, t.seq = some { q with label := l }) ∨
    (t.life = .ready ∧ t.seq = none ∧ t.rsp.isSome = true) := by
  have hg : GoesOn q s t := by
    rcases h with ⟨-, -, -, rfl⟩ | ⟨-, -, hg, -⟩ | ⟨-, hg, -⟩
    · exact .inl ⟨rfl, rfl, _, rfl⟩
    · exact hg
    · exact hg
  exact hg.imp_left fun ⟨h1, h2⟩ => ⟨h1.trans hl, h2⟩

/-- The command that runs after the step is the one that ran before it. -/
theorem Succeeds.next_of_seq (hl : s.life = .busy) (h : Succeeds q s t) {q' : MicroSeq} (hq : t.seq = some q') :
    ∃ l, q' = { q with label := l } := by
  rcases h.goesOn hl with ⟨-, -, l, hl'⟩ | ⟨-, hn, -⟩
  · exact ⟨l, Option.some.inj (hq.symm.trans hl')⟩
  · cases hn.symm.trans hq

/-- An act that succeeds is one the transport completed. -/
theorem Succeeds.answer_ne_fail (h : Succeeds q s t) (ha : q.label.acts = true) : s.answer 0 ≠ .fail := by
  rcases h with ⟨-, -, ⟨bytes, hok⟩, -⟩ | ⟨-, -, -, -, tx, rx, hg, -⟩ | ⟨hn, -⟩
  · simp [hok]
  · exact not_fail_of_gives hg
  · simp [hn] at ha

theorem Succeeds.fault_eq (h : Succeeds q s t) : t.fault = s.fault := by
  rcases h with ⟨-, -, -, rfl⟩ | ⟨-, -, -, -, tx, rx, -, -, ht⟩ | ⟨-, -, -, ht⟩
  · rfl
  · exact (congrArg State.fault ht).trans rfl
  · exact (congrArg State.fault ht).trans rfl

/-- R22: an act leaves chip-select high; nothing else moves it. -/
theorem Succeeds.cs_cases (h : Succeeds q s t) :
    (q.label.acts = true ∧ t.cs = 1) ∨ (q.label.acts = false ∧ t.cs = s.cs) := by
  rcases h with ⟨-, hk, -, rfl⟩ | ⟨ha, -, -, -, tx, rx, -, -, ht⟩ | ⟨hn, -, -, ht⟩
  · exact .inl ⟨by rw [hk]; rfl, rfl⟩
  · exact .inl ⟨ha, (congrArg State.cs ht).trans rfl⟩
  · exact .inr ⟨hn, (congrArg State.cs ht).trans rfl⟩

/-- R51: an event of one byte or two, as many each way. -/
def XferEvent.Balanced (e : XferEvent) : Prop := e.rx.length = e.tx.length ∧ (e.tx.length = 1 ∨ e.tx.length = 2)

/-- R28: a transfer appends its event; nothing else touches `trace`. -/
theorem Succeeds.trace_cases (h : Succeeds q s t) :
    ((q.label.acts = true ∧ q.label ≠ .k0) ∧ ∃ e, t.trace = s.trace ++ [e] ∧ e.Balanced) ∨
    (¬(q.label.acts = true ∧ q.label ≠ .k0) ∧ t.trace = s.trace) := by
  rcases h with ⟨-, hk, -, rfl⟩ | ⟨ha, hk, -, -, tx, rx, hg, hn, ht⟩ | ⟨ha, -, -, ht⟩
  · exact .inr ⟨fun hx => hx.2 hk, rfl⟩
  · exact .inl ⟨⟨ha, hk⟩, ⟨tx, rx⟩, (congrArg State.trace ht).trans rfl, gives_length hg, hn⟩
  · exact .inr ⟨fun hx => by simp [ha] at hx, (congrArg State.trace ht).trans rfl⟩

/-- R172: the changes of the ghost channel state, and no others. -/
theorem Succeeds.chan_cases (h : Succeeds q s t) :
    t.chan = s.chan ∨
    (((q.cmd = .construct ∧ q.label = .k1) ∨ (q.cmd = .reset ∧ q.label = .z2)) ∧ t.chan = .replicate .uninit) ∨
    (∃ ch d p g r, q.cmd = .init ch d p g r ∧
      ((q.label = .i3 ∧ t.chan = s.chan.set ch .calibrating) ∨ (q.label = .i6 ∧ t.chan = s.chan.set ch .ready))) := by
  rcases h with ⟨-, -, -, rfl⟩ | ⟨-, -, -, hc, -⟩ | ⟨-, -, hc, -⟩
  · exact .inl rfl
  · rcases hc with hc | ⟨ch, d, p, g, r, hi, hl, hc⟩
    · exact .inl hc
    · exact .inr (.inr ⟨ch, d, p, g, r, hi, .inl ⟨hl, hc⟩⟩)
  · rcases hc with hc | ⟨hi, hl, hc⟩ | ⟨hi, hl, hc⟩ | ⟨ch, d, p, g, r, hi, hl, hc⟩
    · exact .inl hc
    · exact .inr (.inl ⟨.inl ⟨hi, hl⟩, hc⟩)
    · exact .inr (.inl ⟨.inr ⟨hi, hl⟩, hc⟩)
    · exact .inr (.inr ⟨ch, d, p, g, r, hi, .inr ⟨hl, hc⟩⟩)

end

/-! ## Rules every step keeps (R21, R22, R27, R28, R172) -/

/-- Settles O43: of the four kinds of step only a failing act sets the fault, and none clears it. -/
theorem onlyTransportFailureSetsFault : Obligations.OnlyTransportFailureSetsFault := by
  intro s t h
  cases step_kind h with
  | idles hl _ _ _ ht =>
    subst ht
    exact ⟨id, fun hf => by simp [hf, hl]⟩
  | begins hl i rest _ ht =>
    subst ht
    exact ⟨id, fun hf => by simp [hf, hl]⟩
  | fails q hl hq hs =>
    obtain ⟨ha, hfail, rfl⟩ := hs
    exact ⟨fun _ => rfl, fun _ => ⟨fun _ => ⟨hl, hfail, q, hq, ha⟩, fun _ => rfl⟩⟩
  | succeeds q hl hq _ hs =>
    rw [hs.fault_eq]
    refine ⟨id, fun hf => ⟨fun ht => by simp [hf] at ht, ?_⟩⟩
    rintro ⟨-, hfail, q', hq', ha⟩
    cases hq.symm.trans hq'
    exact absurd hfail (hs.answer_ne_fail ha)

/-- Settles O44: in ABORTED the first check refuses a command, and a word that decodes to none gets the same code. -/
theorem abortedIsForEver : Obligations.AbortedIsForEver := by
  intro s hl
  have hb : s.life ≠ .busy := by simp [hl]
  refine ⟨fun w rest hc => ?_, step_waits hb⟩
  cases hd : decode w with
  | error r => simp [step_illegal hb hc hd, State.refuseIllegal, hl, State.refuse]
  | ok i =>
    have hr : refusalOf { s with cmds := rest } i = some .aborted := by simp [refusalOf, hl]
    rw [step_presents hb hc hd, exec_idle (by exact hb), accept_refused hr]
    rfl

/-- Settles O47: an acceptance begins a command, a failure aborts it, and a success goes on with it or ends it. -/
theorem lifeTransitions : Obligations.LifeTransitions := by
  intro s t h hne
  cases step_kind h with
  | idles _ _ _ _ ht =>
    subst ht
    exact absurd rfl hne
  | begins hl i rest hr ht =>
    subst ht
    obtain ⟨⟨hu, hi⟩ | ⟨hr, hi⟩, -, -⟩ := (refusalOf_eq_none hl).1 hr
    · exact .inl ⟨hu, rfl, _, rfl, hi⟩
    · exact .inr (.inl ⟨hr, rfl, _, rfl, hi⟩)
  | fails q hl _ hs =>
    obtain ⟨-, -, rfl⟩ := hs
    exact .inr (.inr (.inr ⟨hl, rfl, rfl⟩))
  | succeeds q hl _ _ hs =>
    rcases hs.goesOn hl with ⟨hb, -⟩ | ⟨hr, -⟩
    · exact absurd (hb.trans hl.symm) hne
    · exact .inr (.inr (.inl ⟨hl, hr⟩))

/-- Settles O48: a step that succeeds appends an event exactly at a label that makes a transfer; no other step does. -/
theorem traceGrowsByCompletedTransfers : Obligations.TraceGrowsByCompletedTransfers := by
  intro s t h
  cases step_kind h with
  | idles hl _ _ _ ht =>
    subst ht
    exact ⟨.inl rfl, fun hx => absurd rfl hx, fun hx => absurd hx.1 hl⟩
  | begins hl _ _ _ ht =>
    subst ht
    exact ⟨.inl rfl, fun hx => absurd rfl hx, fun hx => absurd hx.1 hl⟩
  | fails q _ _ hs =>
    obtain ⟨-, hfail, rfl⟩ := hs
    exact ⟨.inl rfl, fun hx => absurd rfl hx, fun hx => absurd hfail hx.2.1⟩
  | succeeds q hl hq _ hs =>
    rcases hs.trace_cases with ⟨ha, e, ht, he⟩ | ⟨hn, ht⟩
    · exact ⟨.inr ⟨e, ht, he⟩, fun _ => ⟨hl, hs.answer_ne_fail ha.1, q, hq, ha⟩, fun _ => by simp [ht]⟩
    · refine ⟨.inl ht, fun hx => absurd ht hx, ?_⟩
      rintro ⟨-, -, q', hq', ha⟩
      cases hq.symm.trans hq'
      exact absurd ha hn

/-- Settles O50: an act that fails aborts the block, one that succeeds leaves chip-select high. -/
theorem onlyTransportActsMoveChipSelect : Obligations.OnlyTransportActsMoveChipSelect := by
  intro s t h hne
  cases step_kind h with
  | idles _ _ _ _ ht =>
    subst ht
    exact absurd rfl hne
  | begins _ _ _ _ ht =>
    subst ht
    exact absurd rfl hne
  | fails q hl hq hs =>
    obtain ⟨ha, -, rfl⟩ := hs
    exact ⟨⟨hl, q, hq, ha⟩, fun hx => absurd rfl hx⟩
  | succeeds q hl hq _ hs =>
    rcases hs.cs_cases with ⟨ha, hcs⟩ | ⟨-, hcs⟩
    · exact ⟨⟨hl, q, hq, ha⟩, fun _ => hcs⟩
    · exact absurd hcs hne

/-- A write that changed a channel's value was a write to that channel. -/
theorem PerChan.eq_of_get_set_ne {α : Type} {v : PerChan α} {ch ch' : Chan} {a : α}
    (h : (v.set ch a).get ch' ≠ v.get ch') : ch = ch' := by
  by_contra hne
  exact h (PerChan.get_set_other v a (Ne.symm hne))

/-- Settles O51: only a step that succeeds touches the ghost state, and it does so at the labels of R172. -/
theorem onlyInitAndResetMoveChannelState : Obligations.OnlyInitAndResetMoveChannelState := by
  intro s t ch h hne
  cases step_kind h with
  | idles _ _ _ _ ht =>
    subst ht
    exact absurd rfl hne
  | begins _ _ _ _ ht =>
    subst ht
    exact absurd rfl hne
  | fails q _ _ hs =>
    obtain ⟨-, -, rfl⟩ := hs
    exact absurd rfl hne
  | succeeds q hl hq _ hs =>
    refine ⟨q, hl, hq, ?_⟩
    rcases hs.chan_cases with hc | ⟨hq', hc⟩ | ⟨ch', d, p, g, r, hi, ⟨hl', hc⟩ | ⟨hl', hc⟩⟩ <;> rw [hc] at hne ⊢
    · exact absurd rfl hne
    · rcases hq' with ⟨hi, hl'⟩ | ⟨hi, hl'⟩
      · exact .inl ⟨hi, hl', by simp⟩
      · exact .inr (.inl ⟨hi, hl', by simp⟩)
    · obtain rfl := PerChan.eq_of_get_set_ne hne
      exact .inr (.inr ⟨d, p, g, r, hi, .inl ⟨hl', by simp⟩⟩)
    · obtain rfl := PerChan.eq_of_get_set_ne hne
      exact .inr (.inr ⟨d, p, g, r, hi, .inr ⟨hl', by simp⟩⟩)

/-! ## Power-on and the defaults (R41, R43, R220) -/

/-- Settles O10: the fields of the power-on state, and its one value for every channel. -/
theorem powerOnState : Obligations.PowerOnState :=
  ⟨rfl, rfl, rfl, rfl, rfl, rfl, PerChan.get_replicate ChanState.uninit, rfl⟩

theorem defaultConfig_wf : defaultConfig.wf = true := by decide

/-- Settles O11: nothing runs at power-on, nothing was sent, and the default parameters are legal and have no POLL_BOUND. -/
theorem powerOnMeetsInvariant : Obligations.PowerOnMeetsInvariant where
  cfg := defaultConfig_wf
  seq_iff := by simp [State.reset]
  seq_fits q hq := nomatch hq
  fault_iff := by simp [State.reset]
  cs_high := by simp [State.reset]
  frame_known := by simp [State.reset]
  silent _ := rfl
  polls n hn := nomatch hn
  trace_wf e he := nomatch he
  chan_legal ch _ := PerChan.get_replicate ChanState.uninit ch
  rsp_wf r hr := nomatch hr
  rsp_some := by simp [State.reset]

/-- Settles O56: each map of the default CODES, looked up name by name. -/
theorem defaultCodesAndChannelConfig : Obligations.DefaultCodesAndChannelConfig :=
  ⟨rfl, defaultConfig_wf, rfl, rfl, rfl, rfl, rfl, rfl, rfl⟩

end Sys2Proof.Machine
end

section
/-! PROOFS. How a running command moves: the label it goes to, the frame it leaves and what the chip makes of it, the polls it
counts, the response it ends with; and from these the invariant and the truth of `frame` about the chip. -/

namespace Sys2Proof.Machine

/-! ## What a command running in order does to `frame`, `trace` and the chip (R52, R55, R65) -/

/-- A command with a framing precondition stands at a label of its own with the frame the label needs (R103). -/
structure InOrder (q : MicroSeq) (s : State) : Prop where
  violated : q.violated = false
  construct : q.cmd ≠ .construct
  reset : q.cmd ≠ .reset
  fits : frameFits s.cfg.codes.sel q.cmd s.frame q.label

/-- The data phases the block makes: the register, the direction, the bytes each way (R55). -/
inductive DataPhase : RegName → Bit → List Byte → List Byte → Prop
  | status (b r : Byte) : DataPhase .comm 1 [b] [r]
  | word (b b' r r' : Byte) : DataPhase .data 1 [b, b'] [r, r']
  | clock (b r : Byte) : DataPhase .clock 0 [b] [r]
  | setup (b r : Byte) : DataPhase .setup 0 [b] [r]

/-- One completed transfer, in `trace` and to the chip (R8). -/
def Sends (s t : State) (tx rx : List Byte) : Prop :=
  t.trace = s.trace ++ [⟨tx, rx⟩] ∧ t.chip = s.chip.transfer s.cfg.codes s.draws tx rx

/-- What a step does to `frame` and the wire. -/
inductive FrameMove (s t : State) : Prop
  /-- Between transfers. -/
  | stays (hf : t.frame = s.frame) (ht : t.trace = s.trace) (hc : t.chip = s.chip)
  /-- The transport failed. -/
  | aborts (hl : t.life = .aborted) (ht : t.trace = s.trace)
  /-- A COMM byte names an access. -/
  | frames (sel : Sel) (ch : Chan) (dir : Bit) (r : Byte) (hf : s.frame = .idle) (ht : t.frame = .framed sel ch dir)
      (hs : Sends s t [commByte sel ch dir] [r])
  /-- The data phase of the framed access. -/
  | carries (reg : RegName) (ch : Chan) (dir : Bit) (tx rx : List Byte) (hd : DataPhase reg dir tx rx)
      (hf : s.frame = .framed (selOf s.cfg.codes.sel reg) ch dir) (ht : t.frame = .idle) (hs : Sends s t tx rx)

/-- R65: after the data phase of the register it was told of, the chip expects a communication-register write. -/
theorem DataPhase.chip_pending {codes : Codes} {reg : RegName} {ch : Chan} {dir : Bit} {tx rx : List Byte} {n : Nat}
    {c : Chip} (hw : codes.wf = true) (hd : DataPhase reg dir tx rx) (hc : c.pending = .op (selOf codes.sel reg) ch dir) :
    (c.transfer codes n tx rx).pending = .expectComm := by
  have hr : regOf codes.sel (selOf codes.sel reg) = some reg := regOf_selOf (Codes.sel_nodup hw) reg
  rw [Chip.transfer_op hc]
  unfold Chip.dataPhase
  rw [hr]
  cases hd <;> rfl

/-- A step that so moves `frame` keeps it true of the chip. -/
theorem FrameMove.belief_true {s t : State} (hm : FrameMove s t) (hw : s.cfg.wf = true) (hl : t.life ≠ .aborted)
    (hs : ∀ p, s.frame.belief = some p → s.chip.pending = p) : ∀ p, t.frame.belief = some p → t.chip.pending = p := by
  intro p hp
  cases hm with
  | stays hf _ hc =>
    rw [hf] at hp
    rw [hc]
    exact hs p hp
  | aborts ha _ => exact absurd ha hl
  | frames sel ch dir r hf ht hx =>
    have hc : s.chip.pending = .expectComm := hs _ (by rw [hf]; rfl)
    rw [ht] at hp
    cases hp
    rw [hx.2, Chip.transfer_expect hc, Chip.takeComm_commByte]
  | carries reg ch dir tx rx hd hf ht hx =>
    have hc : s.chip.pending = .op (selOf s.cfg.codes.sel reg) ch dir := hs _ (by rw [hf]; rfl)
    rw [ht] at hp
    cases hp
    rw [hx.2, hd.chip_pending (Config.codes_wf hw) hc]

/-! ## The framing preconditions of the register commands (R103) -/

section
variable {c : SelCodes} {f : Frame}

theorem frameOk_wrclk {clkdis div : Bit} {rate : BitVec 3} (h : frameOk c f (.wrclk clkdis div rate) = true) :
    ∃ ch, f = .framed c.clock ch 0 := by
  cases f <;> simp_all [frameOk]

theorem frameOk_wrsetup {mode : BitVec 2} {gain : BitVec 3} {pol buf fsync : Bit}
    (h : frameOk c f (.wrsetup mode gain pol buf fsync) = true) : ∃ ch, f = .framed c.setup ch 0 := by
  cases f <;> simp_all [frameOk]

theorem frameOk_rdconv (h : frameOk c f .rdconv = true) : ∃ ch, f = .framed c.data ch 1 := by
  cases f <;> simp_all [frameOk]

end

/-! ## The moves of a running command (R24, R93, R103, R145) -/

/-- What a step of the running command `q` says of the next position, frame, poll count and response. -/
structure Moves (q : MicroSeq) (s t : State) : Prop where
  /-- R24: the next label is one of the command's. -/
  label : ∀ q', t.seq = some q' → q'.label.belongs q.cmd = true
  /-- R103: the frame the label needed gives the frame the next label needs. -/
  fits : ∀ q', t.seq = some q' → frameFits s.cfg.codes.sel q.cmd s.frame q.label →
    frameFits s.cfg.codes.sel q.cmd t.frame q'.label
  /-- R145: a command that goes on has not exhausted POLL_BOUND. -/
  polls : t.seq.isSome = true → ∀ n, s.cfg.pollBound = some n → s.pollCount < n → t.pollCount < n
  /-- R23: in order, UNKNOWN is not reached. -/
  known : q.violated = false → t.frame = .unknown → s.frame = .unknown
  /-- R103: a command that ran out of order ends with UNKNOWN. -/
  lost : q.violated = true → q.cmd ≠ .construct → q.cmd ≠ .reset → t.seq = none → t.life ≠ .aborted → t.frame = .unknown
  /-- R93: with an error, no data. -/
  rsp : t.rsp = s.rsp ∨ ∃ r, t.rsp = some r ∧ (r.err ≠ .none → r.data = 0)
  frame : InOrder q s → FrameMove s t

section
variable {q : MicroSeq} {s t : State}

theorem moves_transportFault (q : MicroSeq) (s : State) : Moves q s s.transportFault where
  label _ hq := nomatch hq
  fits _ hq := nomatch hq
  polls hq := nomatch hq
  known _ := id
  lost _ _ _ _ hl := absurd rfl hl
  rsp := .inr ⟨_, rfl, fun _ => rfl⟩
  frame _ := .aborts rfl rfl

/-- The command goes on at the label `l`. -/
theorem moves_on {l : Label} (hq : t.seq = some { q with label := l }) (hb : l.belongs q.cmd = true)
    (hf : frameFits s.cfg.codes.sel q.cmd s.frame q.label → frameFits s.cfg.codes.sel q.cmd t.frame l)
    (hp : ∀ n, s.cfg.pollBound = some n → s.pollCount < n → t.pollCount < n)
    (hk : t.frame = s.frame ∨ t.frame ≠ .unknown) (hr : t.rsp = s.rsp) (hm : InOrder q s → FrameMove s t) :
    Moves q s t where
  label q' hq' := by cases hq.symm.trans hq'; exact hb
  fits q' hq' := by cases hq.symm.trans hq'; exact hf
  polls _ := hp
  known _ hu := hk.elim (fun h => h.symm.trans hu) (absurd hu)
  lost _ _ _ hn := by simp [hq] at hn
  rsp := .inl hr
  frame := hm

/-- The command ends, with the frame `f` if it ran in order. -/
theorem moves_end {f : Frame} {r : Rsp} (hq : t.seq = none) (hf : t.frame = q.frameAfter f) (hk : f ≠ .unknown)
    (hr : t.rsp = some r) (hd : r.err ≠ .none → r.data = 0) (hm : InOrder q s → FrameMove s t) : Moves q s t where
  label _ hq' := by simp [hq] at hq'
  fits _ hq' := by simp [hq] at hq'
  polls hs := by simp [hq] at hs
  known hv hu := absurd ((frameAfter_ordered hv f).symm.trans (hf.symm.trans hu)) hk
  lost hv _ _ _ _ := hf.trans (frameAfter_violated hv f)
  rsp := .inr ⟨r, hr, hd⟩
  frame := hm

/-- CONSTRUCT and RESET end with `frame` IDLE, whatever it was (R101, R170). -/
theorem moves_end_idle {d : Word32} (hi : q.cmd = .construct ∨ q.cmd = .reset) (u : State) :
    Moves q s (u.complete .idle d) where
  label _ hq := nomatch hq
  fits _ hq := nomatch hq
  polls hq := nomatch hq
  known _ hu := nomatch hu
  lost _ hc hr := absurd hi (by simp [hc, hr])
  rsp := .inr ⟨_, rfl, fun he => absurd rfl he⟩
  frame ho := absurd hi (by simp [ho.construct, ho.reset])

/-- A step between transfers that keeps `frame`. -/
theorem goto_moves {l : Label} (hb : l.belongs q.cmd = true)
    (hf : frameFits s.cfg.codes.sel q.cmd s.frame q.label → frameFits s.cfg.codes.sel q.cmd s.frame l) :
    Moves q s (s.goto q l) :=
  moves_on rfl hb hf (fun _ _ => id) (.inl rfl) rfl fun _ => .stays rfl rfl rfl

/-- A command that ends between transfers, at a label where `frame` is IDLE, whatever it makes of the ghost `chan`. -/
theorem complete_moves {d : Word32} (chan : PerChan ChanState)
    (hf : frameFits s.cfg.codes.sel q.cmd s.frame q.label → s.frame = .idle) :
    Moves q s ({ s with chan := chan }.complete (q.frameAfter .idle) d) :=
  moves_end rfl rfl (by simp) rfl (absurd rfl) fun ho =>
    .stays ((frameAfter_ordered ho.violated .idle).trans (hf ho.fits).symm) rfl rfl

theorem pollAgain_moves {p : Label} (hb : p.belongs q.cmd = true)
    (hf : frameFits s.cfg.codes.sel q.cmd s.frame q.label → s.frame = .idle)
    (hp : frameFits s.cfg.codes.sel q.cmd .idle p) : Moves q s (pollAgain p q s) := by
  rcases pollAgain_cases p q s with ⟨-, hx⟩ | ⟨hlt, hx⟩ <;> rw [hx]
  · exact moves_end rfl rfl (by simp) rfl (fun _ => rfl) fun ho =>
      .stays ((frameAfter_ordered ho.violated .idle).trans (hf ho.fits).symm) rfl rfl
  · exact moves_on rfl hb (fun h => by rw [← hf h] at hp; exact hp) (fun n hn _ => hlt n hn) (.inl rfl) rfl
      fun _ => .stays rfl rfl rfl

/-- A framing transfer. -/
theorem frameAccess_moves {sel : Sel} {ch : Chan} {dir : Bit} {next : Label} (hb : next.belongs q.cmd = true)
    (hf : frameFits s.cfg.codes.sel q.cmd s.frame q.label → s.frame = .idle)
    (hn : frameFits s.cfg.codes.sel q.cmd (.framed sel ch dir) next) :
    Moves q s (frameAccess sel ch dir next q s) := by
  rcases frameAccess_cases sel ch dir next q s with ⟨-, hx⟩ | ⟨r, -, hx⟩ <;> rw [hx]
  · exact moves_transportFault q s
  · exact moves_on rfl hb (fun _ => hn) (fun _ _ => id) (.inr (by simp)) rfl fun ho =>
      .frames sel ch dir r (hf ho.fits) rfl ⟨rfl, rfl⟩

theorem xfer_one_moves {b : Byte} {k : List Byte → State → State}
    (hk : ∀ r, Moves q s (k [r] (s.exchanged [b] [r]))) : Moves q s (xfer [b] k s) := by
  rcases xfer_one_cases b k s with ⟨-, hx⟩ | ⟨r, -, hx⟩ <;> rw [hx]
  · exact moves_transportFault q s
  · exact hk r

theorem pollRead_moves {k : Bool → State → State}
    (hk : ∀ r, Moves q s (k (readyByte r) { s.exchanged [s.cfg.dummyTx] [r] with frame := .idle })) :
    Moves q s (pollRead k s) := by
  rcases pollRead_cases k s with ⟨-, hx⟩ | ⟨r, -, hx⟩ <;> rw [hx]
  · exact moves_transportFault q s
  · exact hk r

theorem readWord_moves {k : Word16 → State → State}
    (hk : ∀ r r', Moves q s (k (dataWord r r') (s.exchanged [s.cfg.dummyTx, s.cfg.dummyTx] [r, r']))) :
    Moves q s (readWord k s) := by
  rcases readWord_cases k s with ⟨-, hx⟩ | ⟨r, r', -, hx⟩ <;> rw [hx]
  · exact moves_transportFault q s
  · exact hk r r'

/-- At its label the command needs an access of the register `reg` framed. -/
def NeedsFramed (q : MicroSeq) (s : State) (reg : RegName) (dir : Bit) : Prop :=
  frameFits s.cfg.codes.sel q.cmd s.frame q.label → ∃ ch, s.frame = .framed (selOf s.cfg.codes.sel reg) ch dir

/-- Between its framing transfer and its data phase a command keeps the access of its own channel. -/
theorem framed_of_channel {i : Instr} {f : Frame} {sel : Sel} {dir : Bit}
    (h : ∃ ch, i.channel? = some ch ∧ f = .framed sel ch dir) : ∃ ch, f = .framed sel ch dir :=
  h.imp fun _ hc => hc.2

/-- A data phase in the middle of a command, after which `frame` is IDLE, whatever it makes of the ghost `chan`. -/
theorem dataPhase_moves_on {l : Label} {reg : RegName} {dir : Bit} {tx rx : List Byte} (chan : PerChan ChanState)
    (hd : DataPhase reg dir tx rx) (hf : NeedsFramed q s reg dir) (hb : l.belongs q.cmd = true)
    (hn : frameFits s.cfg.codes.sel q.cmd .idle l) :
    Moves q s ({ s.exchanged tx rx with frame := .idle, chan := chan }.goto q l) :=
  moves_on rfl hb (fun _ => hn) (fun _ _ => id) (.inr (by simp)) rfl fun ho =>
    (hf ho.fits).elim fun ch hc => .carries reg ch dir tx rx hd hc rfl ⟨rfl, rfl⟩

/-- A data phase that ends a command; `frame` may be IDLE already. -/
theorem dataPhase_moves_end {reg : RegName} {dir : Bit} {tx rx : List Byte} {d : Word32} (f : Frame)
    (hd : DataPhase reg dir tx rx) (hf : NeedsFramed q s reg dir) :
    Moves q s ({ s.exchanged tx rx with frame := f }.complete (q.frameAfter .idle) d) :=
  moves_end rfl rfl (by simp) rfl (absurd rfl) fun ho =>
    (hf ho.fits).elim fun ch hc => .carries reg ch dir tx rx hd hc (frameAfter_ordered ho.violated .idle) ⟨rfl, rfl⟩

end

/-! ### The commands, label by label -/

section
variable {v : Bool} {l : Label} {s t : State}

theorem constructBody_moves (h : constructBody ⟨.construct, v, l⟩ s = some t) : Moves ⟨.construct, v, l⟩ s t := by
  cases l <;> cases h
  case k0 =>
    cases ha : s.answer 0 with
    | ok bytes =>
      rw [driveCsHigh_ok ha]
      exact moves_on rfl rfl id (fun _ _ => id) (.inl rfl) rfl fun ho => absurd rfl ho.construct
    | fail =>
      rw [driveCsHigh_fail ha]
      exact moves_transportFault _ s
  case k1 => exact moves_end_idle (.inl rfl) _

theorem selectBody_moves {sel : Sel} {ch : Chan} {dir : Bit} (h : selectBody sel ch dir ⟨.select sel ch dir, v, l⟩ s = some t) :
    Moves ⟨.select sel ch dir, v, l⟩ s t := by
  cases l <;> cases h
  case s0 =>
    exact xfer_one_moves fun r => moves_end rfl rfl (by simp) rfl (absurd rfl) fun ho =>
      .frames sel ch dir r ho.fits (frameAfter_ordered ho.violated _) ⟨rfl, rfl⟩

theorem wrclkBody_moves {clkdis div : Bit} {rate : BitVec 3}
    (h : wrclkBody clkdis div rate ⟨.wrclk clkdis div rate, v, l⟩ s = some t) :
    Moves ⟨.wrclk clkdis div rate, v, l⟩ s t := by
  cases l <;> cases h
  case w0 => exact xfer_one_moves fun r => dataPhase_moves_end s.frame (.clock _ r) frameOk_wrclk

theorem wrsetupBody_moves {mode : BitVec 2} {gain : BitVec 3} {pol buf fsync : Bit}
    (h : wrsetupBody mode gain pol buf fsync ⟨.wrsetup mode gain pol buf fsync, v, l⟩ s = some t) :
    Moves ⟨.wrsetup mode gain pol buf fsync, v, l⟩ s t := by
  cases l <;> cases h
  case t0 => exact xfer_one_moves fun r => dataPhase_moves_end s.frame (.setup _ r) frameOk_wrsetup

theorem rdconvBody_moves (h : rdconvBody ⟨.rdconv, v, l⟩ s = some t) : Moves ⟨.rdconv, v, l⟩ s t := by
  cases l <;> cases h
  case q0 => exact readWord_moves fun r r' => dataPhase_moves_end s.frame (.word _ _ r r') frameOk_rdconv

/-- The labels READ and READV share, whatever ends the command. -/
theorem readLabels_moves {i : Instr} {ch : Chan} {k : Word16 → State → State} (hi : i.channel? = some ch)
    (hb : ∀ l : Label, l.isRead = true → l.belongs i = true)
    (hk : ∀ r r', Moves ⟨i, v, .l3⟩ s (k (dataWord r r') (s.exchanged [s.cfg.dummyTx, s.cfg.dummyTx] [r, r'])))
    (h : readLabels ch k ⟨i, v, l⟩ s = some t) : Moves ⟨i, v, l⟩ s t := by
  cases l <;> cases h
  case l0y0 => exact frameAccess_moves (hb _ rfl) id ⟨ch, hi, rfl⟩
  case l0y1 =>
    exact pollRead_moves fun r => dataPhase_moves_on s.chan (.status _ r) framed_of_channel (hb _ rfl) rfl
  case l1 ready =>
    cases ready with
    | true => exact goto_moves (hb _ rfl) id
    | false => exact pollAgain_moves (hb _ rfl) id rfl
  case l2 => exact frameAccess_moves (hb _ rfl) id ⟨ch, hi, rfl⟩
  case l3 => exact readWord_moves hk

theorem readBody_moves {ch : Chan} (h : readBody ch ⟨.read ch, v, l⟩ s = some t) : Moves ⟨.read ch, v, l⟩ s t :=
  readLabels_moves rfl (fun _ => id)
    (fun r r' => dataPhase_moves_end (q := ⟨.read ch, v, .l3⟩) s.frame (.word _ _ r r') framed_of_channel) h

theorem readvBody_moves {ch : Chan} {reference : Word16}
    (h : readvBody ch reference ⟨.readv ch reference, v, l⟩ s = some t) : Moves ⟨.readv ch reference, v, l⟩ s t := by
  have shared : readLabels ch (fun raw s => { s with frame := .idle }.goto ⟨.readv ch reference, v, l⟩ (.v1 raw))
      ⟨.readv ch reference, v, l⟩ s = some t → Moves ⟨.readv ch reference, v, l⟩ s t :=
    readLabels_moves rfl (fun l hl => by simp [Label.belongs, hl]) fun r r' =>
      dataPhase_moves_on (q := ⟨.readv ch reference, v, .l3⟩) s.chan (.word _ _ r r') framed_of_channel rfl rfl
  cases l with
  | v1 raw => cases h; exact complete_moves s.chan id
  | _ => exact shared h

theorem drdyBody_moves {ch : Chan} (h : drdyBody ch ⟨.drdy ch, v, l⟩ s = some t) : Moves ⟨.drdy ch, v, l⟩ s t := by
  cases l <;> cases h
  case y0 => exact frameAccess_moves rfl id ⟨ch, rfl, rfl⟩
  case y1 => exact pollRead_moves fun r => dataPhase_moves_end .idle (.status _ r) framed_of_channel

theorem resetBody_moves (h : resetBody ⟨.reset, v, l⟩ s = some t) : Moves ⟨.reset, v, l⟩ s t := by
  cases l <;> cases h
  case z0 => exact goto_moves rfl id
  case z1 i =>
    by_cases hi : i < resetCount
    · rw [if_pos hi]
      exact xfer_one_moves fun _ => moves_on rfl (by simpa [Label.belongs, Label.isReset] using hi) id (fun _ _ => id)
        (.inl rfl) rfl fun ho => absurd rfl ho.reset
    · rw [if_neg hi]
      exact goto_moves rfl id
  case z2 => exact moves_end_idle (.inr rfl) _

theorem initBody_moves {ch : Chan} {div pol : Bit} {gain rate : BitVec 3}
    (h : initBody ch div pol gain rate ⟨.init ch div pol gain rate, v, l⟩ s = some t) :
    Moves ⟨.init ch div pol gain rate, v, l⟩ s t := by
  cases l <;> cases h
  case i0 => exact frameAccess_moves rfl id ⟨ch, rfl, rfl⟩
  case i1 =>
    exact xfer_one_moves fun r => dataPhase_moves_on s.chan (.clock _ r) framed_of_channel rfl rfl
  case i2 => exact frameAccess_moves rfl id ⟨ch, rfl, rfl⟩
  case i3 => exact xfer_one_moves fun r => dataPhase_moves_on _ (.setup _ r) framed_of_channel rfl rfl
  case i4y0 => exact frameAccess_moves rfl id ⟨ch, rfl, rfl⟩
  case i4y1 =>
    exact pollRead_moves fun r => dataPhase_moves_on s.chan (.status _ r) framed_of_channel rfl rfl
  case i5 ready =>
    cases ready with
    | true => exact goto_moves rfl id
    | false => exact pollAgain_moves rfl id rfl
  case i6 => exact complete_moves _ id

end

/-- How every running command moves. -/
theorem bodyOf_moves {q : MicroSeq} {s t : State} (h : bodyOf q.cmd q s = some t) : Moves q s t := by
  obtain ⟨i, v, l⟩ := q
  cases i with
  | construct => exact constructBody_moves h
  | select => exact selectBody_moves h
  | wrclk => exact wrclkBody_moves h
  | wrsetup => exact wrsetupBody_moves h
  | rdconv => exact rdconvBody_moves h
  | read => exact readBody_moves h
  | readv => exact readvBody_moves h
  | drdy => exact drdyBody_moves h
  | reset => exact resetBody_moves h
  | init => exact initBody_moves h

/-! ## The invariant -/

/-- The first label is one of the command's (R24). -/
theorem firstLabel_belongs (i : Instr) : (firstLabel i).belongs i = true := by cases i <;> rfl

/-- Only CONSTRUCT begins by driving chip-select. -/
theorem ne_construct_of_firstLabel {i : Instr} (h : firstLabel i ≠ .k0) : i ≠ .construct := by
  rintro rfl
  exact h rfl

/-- The framing precondition is what the first label needs (R103). -/
theorem frameFits_firstLabel {c : SelCodes} {f : Frame} {i : Instr} (h : frameOk c f i = true) :
    frameFits c i f (firstLabel i) := by
  cases i with
  | construct => trivial
  | reset => trivial
  | wrclk => exact h
  | wrsetup => exact h
  | rdconv => exact h
  | _ => exact of_decide_eq_true (p := f = .idle) h

theorem idles_keeps_inv {s : State} {cmds : List Word32} {rsp : Option Rsp} (hs : s.Inv)
    (hr : rsp = s.rsp ∨ ∃ e, rsp = some ⟨e, 0⟩) : State.Inv { s with cmds := cmds, rsp := rsp } where
  cfg := hs.cfg
  seq_iff := hs.seq_iff
  seq_fits q hq :=
    have ⟨hlabel, hchannel, hviolated, hfree, hframe⟩ := hs.seq_fits q hq
    ⟨hlabel, hchannel, hviolated, hfree, hframe⟩
  fault_iff := hs.fault_iff
  cs_high := hs.cs_high
  frame_known := hs.frame_known
  silent := hs.silent
  polls := hs.polls
  trace_wf := hs.trace_wf
  chan_legal := hs.chan_legal
  rsp_wf r hr' he := by
    rcases hr with h | ⟨e, h⟩
    · exact hs.rsp_wf r (h.symm.trans hr') he
    · cases h.symm.trans hr'
      rfl
  rsp_some hl := by
    rcases hr with h | ⟨e, h⟩
    · exact (congrArg Option.isSome h).trans (hs.rsp_some hl)
    · exact congrArg Option.isSome h

/-- A command that is accepted begins at its first label, in order or, without STRICT_FRAMING, out of it. -/
theorem begin_fits {s : State} {i : Instr} (hw : i.wf s.cfg.numChannels = true)
    (hf : frameOk s.cfg.codes.sel s.frame i = true ∨ s.cfg.strictFraming = false) :
    MicroSeq.Fits ⟨i, !frameOk s.cfg.codes.sel s.frame i, firstLabel i⟩ (s.begin i) where
  label := firstLabel_belongs i
  channel := hw
  violated hv := hf.resolve_left (by simpa using hv)
  free hi := by rcases hi with rfl | rfl <;> rfl
  frame hv := frameFits_firstLabel (by simpa using hv)

theorem begins_keeps_inv {s : State} {i : Instr} (hs : s.Inv) (hl : s.life ≠ .busy) (hr : refusalOf s i = none) :
    (s.begin i).Inv := by
  obtain ⟨hi, hw, hf⟩ := (refusalOf_eq_none hl).1 hr
  exact {
    cfg := hs.cfg
    seq_iff := by simp
    seq_fits := by
      intro q hq
      cases hq
      exact begin_fits hw hf
    fault_iff := by
      have hn : s.life ≠ .aborted := by rcases hi with ⟨h, -⟩ | ⟨h, -⟩ <;> simp [h]
      simp [hs.fault_iff, hn]
    cs_high := by
      rintro (hx | ⟨q, hq, hk⟩)
      · cases hx
      · cases hq
        exact hs.cs_high (.inl (hi.resolve_left fun h => ne_construct_of_firstLabel hk h.2).1)
    frame_known := hs.frame_known
    silent := by
      rintro (hx | ⟨q, hq, hc⟩)
      · cases hx
      · cases hq
        exact hs.silent (.inl (hi.resolve_right fun h => h.2 hc).1)
    polls := fun n hn _ => Config.bound_pos hs.cfg hn
    trace_wf := hs.trace_wf
    chan_legal := hs.chan_legal
    rsp_wf := hs.rsp_wf
    rsp_some := by simp }

theorem transportFault_keeps_inv {s : State} (hs : s.Inv) : s.transportFault.Inv where
  cfg := hs.cfg
  seq_iff := by simp
  seq_fits _ hq := nomatch hq
  fault_iff := by simp
  cs_high := by simp
  frame_known := hs.frame_known
  silent := by simp
  polls := by simp
  trace_wf := hs.trace_wf
  chan_legal := hs.chan_legal
  rsp_wf r hr _ := by cases hr; rfl
  rsp_some _ := rfl

section
variable {q : MicroSeq} {s t : State}

/-- The position of a command that goes on. -/
theorem Moves.keeps_fits (hm : Moves q s t) (hcfg : t.cfg = s.cfg) (hf : q.Fits s) {l : Label}
    (hq : t.seq = some { q with label := l }) : MicroSeq.Fits { q with label := l } t where
  label := hm.label _ hq
  channel := hcfg ▸ hf.channel
  violated := hcfg ▸ hf.violated
  free := hf.free
  frame hv := hcfg ▸ hm.fits _ hq (hf.frame hv)

/-- Under STRICT_FRAMING a running command runs in order (R100). -/
theorem MicroSeq.Fits.ordered (hf : q.Fits s) (hst : s.cfg.strictFraming = true) : q.violated = false := by
  by_contra hv
  simp [hf.violated (by simpa using hv)] at hst

/-- CONSTRUCT's one act is its chip-select drive (R101). -/
theorem Label.eq_k0_of_construct {l : Label} (hb : l.belongs .construct = true) (ha : l.acts = true) : l = .k0 := by
  cases l <;> simp_all [Label.belongs, Label.isConstruct, Label.acts]

theorem Succeeds.trace_of_construct (h : Succeeds q s t) (hb : q.label.belongs q.cmd = true) (hi : q.cmd = .construct) :
    t.trace = s.trace := by
  rcases h.trace_cases with ⟨⟨ha, hk⟩, -⟩ | ⟨-, ht⟩
  · exact absurd (Label.eq_k0_of_construct (hi ▸ hb) ha) hk
  · exact ht

/-- R40: a channel the machine lacks stays as it is, or becomes UNINIT: INIT's operand is legal. -/
theorem Succeeds.chan_of_illegal (h : Succeeds q s t) (hw : q.cmd.wf s.cfg.numChannels = true) {ch : Chan}
    (hch : s.cfg.numChannels.legal ch = false) : t.chan.get ch = s.chan.get ch ∨ t.chan.get ch = .uninit := by
  have other : ∀ {c d p g r}, q.cmd = .init c d p g r → ch ≠ c := by
    rintro c d p g r hi rfl
    simp [hi, Instr.wf, Instr.channel?, hch] at hw
  rcases h.chan_cases with hc | ⟨-, hc⟩ | ⟨c, d, p, g, r, hi, ⟨-, hc⟩ | ⟨-, hc⟩⟩ <;> rw [hc]
  · exact .inl rfl
  · exact .inr (by simp)
  · exact .inl (PerChan.get_set_other _ _ (other hi))
  · exact .inl (PerChan.get_set_other _ _ (other hi))

theorem succeeds_keeps_inv (hs : s.Inv) (hl : s.life = .busy) (hq : s.seq = some q) (hb : bodyOf q.cmd q s = some t)
    (h : Succeeds q s t) : t.Inv := by
  have hm : Moves q s t := bodyOf_moves hb
  have hcfg : t.cfg = s.cfg := bodyOf_cfg hb
  have hf : q.Fits s := hs.seq_fits q hq
  have hg := h.goesOn hl
  have hlife : t.life = .busy ∨ t.life = .ready := hg.imp (fun x => x.1) fun x => x.1
  exact {
    cfg := hcfg ▸ hs.cfg
    seq_iff := by rcases hg with ⟨hb, -, l, hq'⟩ | ⟨hr, hq', -⟩ <;> simp [*]
    seq_fits := by
      intro q' hq'
      obtain ⟨l, rfl⟩ := h.next_of_seq hl hq'
      exact hm.keeps_fits hcfg hf hq'
    fault_iff := by
      rw [h.fault_eq, hs.fault_iff, hl]
      rcases hlife with hx | hx <;> simp [hx]
    cs_high := by
      intro _
      rcases h.cs_cases with ⟨-, hc⟩ | ⟨hn, hc⟩
      · exact hc
      · exact hc.trans (hs.cs_high (.inr ⟨q, hq, fun hk => by simp [hk, Label.acts] at hn⟩))
    frame_known := by
      intro hst hu
      rw [hcfg] at hst
      exact hs.frame_known hst (hm.known (hf.ordered hst) hu)
    silent := by
      rintro (hu | ⟨q', hq', hi⟩)
      · simp [hu] at hlife
      · obtain ⟨l, rfl⟩ := h.next_of_seq hl hq'
        exact (h.trace_of_construct hf.label hi).trans (hs.silent (.inr ⟨q, hq, hi⟩))
    polls := by
      intro n hn hbusy
      rw [hcfg] at hn
      rcases hg with ⟨-, -, l, hq'⟩ | ⟨hr, -⟩
      · exact hm.polls (by simp [hq']) n hn (hs.polls n hn hl)
      · simp [hr] at hbusy
    trace_wf := by
      intro e he
      rcases h.trace_cases with ⟨-, e', ht, he'⟩ | ⟨-, ht⟩ <;> rw [ht] at he
      · rcases List.mem_append.1 he with h1 | h1
        · exact hs.trace_wf e h1
        · exact List.mem_singleton.1 h1 ▸ he'
      · exact hs.trace_wf e he
    chan_legal := by
      intro ch hch
      rw [hcfg] at hch
      exact (h.chan_of_illegal hf.channel hch).elim (fun hc => hc.trans (hs.chan_legal ch hch)) id
    rsp_wf := by
      intro r hr he
      rcases hm.rsp with hx | ⟨r', hx, hd⟩
      · exact hs.rsp_wf r (hx.symm.trans hr) he
      · cases hx.symm.trans hr
        exact hd he
    rsp_some := by
      intro hx
      rcases hg with ⟨hb, -⟩ | ⟨-, -, hr⟩
      · simp [hb] at hx
      · exact hr }

end

/-- Settles O12: each of the four kinds of step keeps the invariant. -/
theorem everyStepKeepsInvariant : Obligations.EveryStepKeepsInvariant := by
  intro s t hs h
  cases step_kind h with
  | idles _ cmds rsp hr ht => exact ht ▸ idles_keeps_inv hs hr
  | begins hl i rest hr ht =>
    exact ht ▸ begins_keeps_inv (s := { s with cmds := rest }) (idles_keeps_inv hs (.inl rfl)) hl hr
  | fails q _ _ hf => exact hf.2.2 ▸ transportFault_keeps_inv hs
  | succeeds q hl hq hb hsucc => exact succeeds_keeps_inv hs hl hq hb hsucc

/-! ## `frame` and the chip (R23, R38, R67, R222) -/

/-- RESET ends with `frame` IDLE and the chip expecting a communication-register write (R67). -/
theorem resetBody_resyncs {q : MicroSeq} {s t : State} (h : resetBody q s = some t) (hn : t.seq = none)
    (ha : t.life ≠ .aborted) : t.frame = .idle ∧ t.chip.pending = .expectComm := by
  obtain ⟨i, v, l⟩ := q
  cases l <;> cases h
  case z0 => cases hn
  case z1 i =>
    by_cases hi : i < resetCount
    · rw [if_pos hi] at hn ha
      rcases xfer_one_cases syncByte _ s with ⟨-, hx⟩ | ⟨r, -, hx⟩ <;> rw [hx] at hn ha
      · exact absurd rfl ha
      · cases hn
    · rw [if_neg hi] at hn
      cases hn
  case z2 => exact ⟨rfl, rfl⟩

/-- A state in which `frame` is IDLE and the chip expects a communication-register write. -/
theorem frameTrue_of_idle {s : State} (hf : s.frame = .idle) (hp : s.chip.pending = .expectComm) : s.FrameTrue := by
  intro _ _ p hb
  rw [hf] at hb
  cases hb
  exact hp

/-- A running command leaves `frame` true of the chip: RESET where it ends, another where it ran in order. -/
theorem running_keeps_frameTrue {q : MicroSeq} {s t : State} (hs : s.Inv) (hft : s.FrameTrue) (hl : s.life = .busy)
    (hq : s.seq = some q) (hc : q.cmd ≠ .construct) (hb : bodyOf q.cmd q s = some t) (h : Succeeds q s t) :
    t.FrameTrue := by
  intro ha hseq
  have hm : Moves q s t := bodyOf_moves hb
  have hpos : t.seq = none ∨ (q.cmd ≠ .reset ∧ q.violated = false) := by
    rcases h.goesOn hl with ⟨-, -, l, hq'⟩ | ⟨-, hn, -⟩
    · exact .inr (hseq { q with label := l } hq')
    · exact .inl hn
  by_cases hr : q.cmd = .reset
  · have hn : t.seq = none := hpos.resolve_right fun hx => hx.1 hr
    rw [hr] at hb
    obtain ⟨hf, hp⟩ := resetBody_resyncs hb hn ha
    exact frameTrue_of_idle hf hp ha hseq
  cases hv : q.violated with
  | true =>
    have hn : t.seq = none := hpos.resolve_right fun hx => by simp [hv] at hx
    have hf : t.frame = .unknown := hm.lost hv hc hr hn ha
    simp [hf, Frame.belief]
  | false =>
    have ho : InOrder q s := ⟨hv, hc, hr, (hs.seq_fits q hq).frame hv⟩
    refine (hm.frame ho).belief_true hs.cfg ha (hft (by simp [hl]) fun q' hq' => ?_)
    cases hq.symm.trans hq'
    exact ⟨hr, hv⟩

/-- Settles O13: waiting, refusals and acceptances touch neither `frame` nor the chip; a running command keeps them together. -/
theorem frameStaysTrueOfTheChip : Obligations.FrameStaysTrueOfTheChip := by
  intro s t hs hft hnc h
  cases step_kind h with
  | idles _ _ _ _ ht =>
    subst ht
    exact hft
  | begins hl i rest hr ht =>
    subst ht
    intro _ _
    refine hft (fun ha => ?_) fun q hq => ?_
    · simp [refusalOf, ha] at hr
    · exact absurd (hs.seq_iff.1 (by simp [hq])) hl
  | fails q _ _ hf =>
    obtain ⟨-, -, rfl⟩ := hf
    exact fun ha => absurd rfl ha
  | succeeds q hl hq hb hsucc => exact running_keeps_frameTrue hs hft hl hq (hnc q hq) hb hsucc

/-- Settles O14: CONSTRUCT's last step does not touch the chip, RESET's leaves it expecting a communication-register write. -/
theorem constructAndResetEstablishFrame : Obligations.ConstructAndResetEstablishFrame := by
  refine ⟨fun s v ⟨hl, hq⟩ hp => ?_, fun s v ⟨hl, hq⟩ => ?_⟩
  · exact ⟨_, exec_running hl hq rfl rfl, rfl, frameTrue_of_idle rfl hp⟩
  · exact ⟨_, exec_running hl hq rfl rfl, rfl, rfl, frameTrue_of_idle rfl rfl⟩

end Sys2Proof.Machine
end

section
/-! PROOFS. The framing discipline on the wire (R52, R55, R65), and what the data phases make of the chip's registers (R65 to R68). -/

namespace Sys2Proof.Machine

/-! ## Every transfer outside RESET is framed (R52, R55, R65) -/

/-- R55: a data phase sends as many bytes as its register is wide. -/
theorem DataPhase.regWidth_eq {reg : RegName} {dir : Bit} {tx rx : List Byte} (hd : DataPhase reg dir tx rx) :
    regWidth reg = some tx.length := by
  cases hd <;> rfl

/-- A command other than RESET that makes a transfer in order stands where its framing precondition holds: CONSTRUCT makes none. -/
theorem inOrder_of_transfer {q : MicroSeq} {s t : State} (hs : s.Inv) (hq : s.seq = some q) (hv : q.violated = false)
    (hr : q.cmd ≠ .reset) (h : Succeeds q s t) (ht : t.trace ≠ s.trace) : InOrder q s where
  violated := hv
  construct hc := ht (h.trace_of_construct (hs.seq_fits q hq).label hc)
  reset := hr
  fits := (hs.seq_fits q hq).frame hv

/-- Settles O49: only a running command that succeeds appends to `trace`, and in order it does so by naming an access or by
carrying out the framed one. -/
theorem everyTransferIsFramed : Obligations.EveryTransferIsFramed := by
  intro s t q hs h hq hv hr hne
  cases step_kind h with
  | idles _ _ _ _ ht => exact absurd (congrArg State.trace ht) hne
  | begins _ _ _ _ ht => exact absurd (congrArg State.trace ht) hne
  | fails q' _ _ hf => exact absurd (congrArg State.trace hf.2.2) hne
  | succeeds q' _ hq' hb hsucc =>
    cases hq.symm.trans hq'
    cases (bodyOf_moves hb).frame (inOrder_of_transfer hs hq hv hr hsucc hne) with
    | stays _ ht _ => exact absurd ht hne
    | aborts _ ht => exact absurd ht hne
    | frames sel ch dir r hf ht hx => exact .inl ⟨hf, sel, ch, dir, r, hx.1, ht⟩
    | carries reg ch dir tx rx hd hf ht hx =>
      have hreg : regOf s.cfg.codes.sel (selOf s.cfg.codes.sel reg) = some reg :=
        regOf_selOf (Codes.sel_nodup (Config.codes_wf hs.cfg)) reg
      exact .inr ⟨_, ch, dir, reg, ⟨tx, rx⟩, hf, hreg, hx.1, hd.regWidth_eq, ht⟩

/-! ## What one transfer does to the chip's registers (R31, R34, R65, R66, R68) -/

/-- R87: the byte SELECT and every framing transfer sends has bits 7 and 2 zero. -/
theorem isCommByte_commByte (sel : Sel) (ch : Chan) (dir : Bit) : isCommByte (commByte sel ch dir) = true := by
  revert sel ch dir; decide

/-- R31: the communication register takes the COMM byte. -/
theorem Chip.takeComm_commByte_comm {n : Nat} {c : Chip} (sel : Sel) (ch : Chan) (dir : Bit) :
    (c.takeComm n (commByte sel ch dir)).comm = commByte sel ch dir := by
  simp [Chip.takeComm, isCommByte_commByte]

section
variable {codes : Codes} {sel : Sel} {n : Nat} {c : Chip} {ch : Chan}

theorem Chip.dataPhase_clock (h : regOf codes.sel sel = some .clock) (b r : Byte) :
    c.dataPhase codes n sel ch 0 [b] [r] = c.writeClock n ch b := by
  simp [Chip.dataPhase, h]

theorem Chip.dataPhase_setup (h : regOf codes.sel sel = some .setup) (b r : Byte) :
    c.dataPhase codes n sel ch 0 [b] [r] = c.writeSetup codes.mode.selfCal n ch b := by
  simp [Chip.dataPhase, h]

theorem Chip.dataPhase_status (h : regOf codes.sel sel = some .comm) (b r : Byte) :
    c.dataPhase codes n sel ch 1 [b] [r] = c.readStatus r := by
  simp [Chip.dataPhase, h]

theorem Chip.dataPhase_word (h : regOf codes.sel sel = some .data) (b b' r r' : Byte) :
    c.dataPhase codes n sel ch 1 [b, b'] [r, r'] = c.readData ch (dataWord r r') := by
  simp [Chip.dataPhase, h]

@[simp] theorem Chip.writeClock_clock (b : Byte) : ((c.writeClock n ch b).regs.get ch).clock = b := by
  simp [Chip.writeClock]

@[simp] theorem Chip.writeSetup_setup (m : BitVec 2) (b : Byte) : ((c.writeSetup m n ch b).regs.get ch).setup = b := by
  simp [Chip.writeSetup]

/-- R68: while a self-calibration runs DRDY reads not-ready. -/
theorem Chip.writeSetup_drdy_selfCal {m : BitVec 2} {b : Byte} (h : setupMode b = m) : (c.writeSetup m n ch b).drdy = 1 :=
  if_pos h

@[simp] theorem Chip.readData_data (w : Word16) : ((c.readData ch w).regs.get ch).data = w := by
  simp [Chip.readData]

end

/-- Settles O58: expecting a COMM byte the chip takes one; told of a register it takes that register's data phase. -/
theorem chipFollowsItsContract : Obligations.ChipFollowsItsContract := by
  intro c codes n hw
  have named : ∀ reg, regOf codes.sel (selOf codes.sel reg) = some reg := regOf_selOf (Codes.sel_nodup hw)
  refine ⟨fun sel ch dir rx hc => ?_, fun ch b r hc => ?_, fun ch b r hc => ?_, fun ch b r hc => ?_,
    fun ch b b' r r' hc => ?_⟩
  · rw [Chip.transfer_expect hc]
    exact ⟨Chip.takeComm_commByte sel ch dir, Chip.takeComm_commByte_comm sel ch dir⟩
  · rw [Chip.transfer_op hc, Chip.dataPhase_clock (sel := codes.sel.clock) (named .clock)]
    exact ⟨rfl, Chip.writeClock_clock b⟩
  · rw [Chip.transfer_op hc, Chip.dataPhase_setup (sel := codes.sel.setup) (named .setup)]
    exact ⟨rfl, Chip.writeSetup_setup _ b, Chip.writeSetup_drdy_selfCal⟩
  · rw [Chip.transfer_op hc, Chip.dataPhase_status (sel := codes.sel.comm) (named .comm)]
    exact ⟨rfl, rfl⟩
  · rw [Chip.transfer_op hc, Chip.dataPhase_word (sel := codes.sel.data) (named .data), ← dataWord_eq]
    exact ⟨rfl, Chip.readData_data _⟩

end Sys2Proof.Machine
end

section
/-! PROOFS. The wire formats (R70 to R75, R87) and the response port (R93): each field stands at its bits, and encoders and
decoders are inverse. -/

namespace Sys2Proof.Machine

/-! ## The COMM byte (R71, R87) -/

@[simp] theorem commSel_commByte (sel : Sel) (ch : Chan) (dir : Bit) : commSel (commByte sel ch dir) = sel := by
  revert sel ch dir; decide

@[simp] theorem commChan_commByte (sel : Sel) (ch : Chan) (dir : Bit) : commChan (commByte sel ch dir) = ch := by
  revert sel ch dir; decide

@[simp] theorem commDir_commByte (sel : Sel) (ch : Chan) (dir : Bit) : commDir (commByte sel ch dir) = dir := by
  revert sel ch dir; decide

theorem isCommByte_iff (b : Byte) : isCommByte b = true ↔ b &&& 0x84 = 0 := decide_eq_true_iff

theorem commByte_decoded {b : Byte} (h : isCommByte b = true) : commByte (commSel b) (commChan b) (commDir b) = b := by
  revert b; decide

/-- R71: no bit of one field falls on another's. -/
theorem commByte_toNat (sel : Sel) (ch : Chan) (dir : Bit) :
    (commByte sel ch dir).toNat = (sel.toNat <<< 4 ||| dir.toNat <<< 3 ||| ch.toNat) := by
  revert sel ch dir; decide

theorem commByte_zero_bits (sel : Sel) (ch : Chan) (dir : Bit) :
    (commByte sel ch dir).getLsbD 7 = false ∧ (commByte sel ch dir).getLsbD 2 = false := by
  revert sel ch dir; decide

theorem commByte_injective {sel sel' : Sel} {ch ch' : Chan} {dir dir' : Bit}
    (h : commByte sel ch dir = commByte sel' ch' dir') : sel = sel' ∧ ch = ch' ∧ dir = dir' :=
  ⟨by simpa using congrArg commSel h, by simpa using congrArg commChan h, by simpa using congrArg commDir h⟩

/-- Settles O1: each byte with bits 7 and 2 zero is the COMM byte of what it decodes to. -/
theorem commByteLayout : Obligations.CommByteLayout := by
  refine ⟨fun sel ch dir => ?_, fun b => ⟨fun h => ?_, ?_⟩, fun _ _ _ _ _ _ => commByte_injective, by decide⟩
  · exact ⟨commByte_toNat sel ch dir, commSel_commByte sel ch dir, commDir_commByte sel ch dir,
      commChan_commByte sel ch dir, commByte_zero_bits sel ch dir⟩
  · exact ⟨_, _, _, commByte_decoded ((isCommByte_iff b).mpr h)⟩
  · rintro ⟨sel, ch, dir, rfl⟩
    exact (isCommByte_iff _).mp (isCommByte_commByte sel ch dir)

/-! ## The CLOCK byte (R72, R87) -/

@[simp] theorem clockClkdis_clockByte (clkdis div : Bit) (rate : BitVec 3) :
    clockClkdis (clockByte clkdis div rate) = clkdis := by
  revert clkdis div rate; decide

@[simp] theorem clockDiv_clockByte (clkdis div : Bit) (rate : BitVec 3) : clockDiv (clockByte clkdis div rate) = div := by
  revert clkdis div rate; decide

/-- The rate's bit 2 never reaches the wire. -/
@[simp] theorem clockRate_clockByte (clkdis div : Bit) (rate : BitVec 3) :
    clockRate (clockByte clkdis div rate) = rate.extractLsb' 0 2 := by
  revert clkdis div rate; decide

theorem isClockByte_iff (b : Byte) : isClockByte b = true ↔ b &&& 0xE4 = 0 := decide_eq_true_iff

theorem isClockByte_clockByte (clkdis div : Bit) (rate : BitVec 3) : isClockByte (clockByte clkdis div rate) = true := by
  revert clkdis div rate; decide

theorem clockByte_decoded {b : Byte} (h : isClockByte b = true) :
    clockByte (clockClkdis b) (clockDiv b) ((clockRate b).setWidth 3) = b := by
  revert b; decide

theorem clockByte_toNat (clkdis div : Bit) (rate : BitVec 3) :
    (clockByte clkdis div rate).toNat = ((clkdis.toNat <<< 4 ||| div.toNat <<< 3 ||| rate.toNat) &&& 0xFB) := by
  revert clkdis div rate; decide

theorem clockByte_zero_bits (clkdis div : Bit) (rate : BitVec 3) :
    (clockByte clkdis div rate).getLsbD 2 = false ∧ (clockByte clkdis div rate).extractLsb' 5 3 = 0 := by
  revert clkdis div rate; decide

theorem clockByte_low_rate (clkdis div : Bit) (rate : BitVec 3) :
    clockByte clkdis div rate = clockByte clkdis div (rate &&& 3) := by
  revert clkdis div rate; decide

/-- Settles O2: each byte with bits 7:5 and 2 zero is the CLOCK byte of what it decodes to. -/
theorem clockByteLayout : Obligations.ClockByteLayout := by
  refine ⟨fun clkdis div rate => ?_, fun b => ⟨fun h => ?_, ?_⟩, by decide, by decide, by decide⟩
  · obtain ⟨hbit, hhigh⟩ := clockByte_zero_bits clkdis div rate
    exact ⟨clockByte_toNat clkdis div rate, clockClkdis_clockByte clkdis div rate, clockDiv_clockByte clkdis div rate,
      clockRate_clockByte clkdis div rate, hbit, hhigh, clockByte_low_rate clkdis div rate⟩
  · exact ⟨_, _, _, clockByte_decoded ((isClockByte_iff b).mpr h)⟩
  · rintro ⟨clkdis, div, rate, rfl⟩
    exact (isClockByte_iff _).mp (isClockByte_clockByte clkdis div rate)

/-! ## The SETUP byte (R73, R87) -/

section
variable (mode : BitVec 2) (gain : BitVec 3) (pol buf fsync : Bit)

@[simp] theorem setupMode_setupByte : setupMode (setupByte mode gain pol buf fsync) = mode := by
  revert mode gain pol buf fsync; decide

@[simp] theorem setupGain_setupByte : setupGain (setupByte mode gain pol buf fsync) = gain := by
  revert mode gain pol buf fsync; decide

@[simp] theorem setupPol_setupByte : setupPol (setupByte mode gain pol buf fsync) = pol := by
  revert mode gain pol buf fsync; decide

@[simp] theorem setupBuf_setupByte : setupBuf (setupByte mode gain pol buf fsync) = buf := by
  revert mode gain pol buf fsync; decide

@[simp] theorem setupFsync_setupByte : setupFsync (setupByte mode gain pol buf fsync) = fsync := by
  revert mode gain pol buf fsync; decide

theorem setupByte_toNat : (setupByte mode gain pol buf fsync).toNat =
    (mode.toNat <<< 6 ||| gain.toNat <<< 3 ||| pol.toNat <<< 2 ||| buf.toNat <<< 1 ||| fsync.toNat) := by
  revert mode gain pol buf fsync; decide

end

theorem setupByte_decoded (b : Byte) :
    setupByte (setupMode b) (setupGain b) (setupPol b) (setupBuf b) (setupFsync b) = b := by
  revert b; decide

/-- Settles O3: every operand is read back, and every byte is the SETUP byte of what it decodes to. -/
theorem setupByteLayout : Obligations.SetupByteLayout := by
  refine ⟨fun mode gain pol buf fsync => ?_, fun b => ⟨_, _, _, _, _, setupByte_decoded b⟩, by decide⟩
  exact ⟨setupByte_toNat .., setupMode_setupByte .., setupGain_setupByte .., setupPol_setupByte ..,
    setupBuf_setupByte .., setupFsync_setupByte ..⟩

/-- R72: the two rate bits the wire carries, as a number. -/
theorem low_rate_toNat (rate : BitVec 3) : (rate.extractLsb' 0 2).toNat = (rate &&& 3).toNat := by
  revert rate; decide

/-- Settles O5: the decoders read the fields back, and accept exactly the bytes of their format. -/
theorem wireDecodersInvert : Obligations.WireDecodersInvert := by
  refine ⟨fun sel ch dir => ?_, isCommByte_iff, fun b => commByte_decoded, fun mode gain pol buf fsync => ?_,
    setupByte_decoded, fun clkdis div rate => ?_, isClockByte_iff⟩
  · exact ⟨isCommByte_commByte .., commSel_commByte .., commChan_commByte .., commDir_commByte ..⟩
  · exact ⟨setupMode_setupByte .., setupGain_setupByte .., setupPol_setupByte .., setupBuf_setupByte ..,
      setupFsync_setupByte ..⟩
  · exact ⟨isClockByte_clockByte .., clockClkdis_clockByte .., clockDiv_clockByte ..,
      (congrArg BitVec.toNat (clockRate_clockByte clkdis div rate)).trans (low_rate_toNat rate)⟩

/-! ## Received bytes (R74, R75) -/

/-- R74: the first byte received is the high one. -/
theorem dataWord_toNat (b0 b1 : Byte) : (dataWord b0 b1).toNat = (b0.toNat <<< 8 ||| b1.toNat) := by
  have h0 := b0.isLt
  have h1 := b1.isLt
  rw [dataWord_eq, BitVec.toNat_ofNat, ← Nat.shiftLeft_add_eq_or_of_lt (by omega), Nat.shiftLeft_eq]
  omega

/-- Every word is that of its own two bytes. -/
theorem dataWord_bytes (w : Word16) : dataWord (w.extractLsb' 8 8) (w.extractLsb' 0 8) = w := by
  have h := w.isLt
  apply BitVec.eq_of_toNat_eq
  simp only [dataWord_eq, BitVec.toNat_ofNat, BitVec.extractLsb'_toNat, Nat.shiftRight_eq_div_pow]
  omega

/-- R75: bits 6:0 are ignored. -/
theorem readyByte_mask (b : Byte) : readyByte b = readyByte (b &&& 0x80) := by
  simp [readyByte_eq]

/-- Settles O4: a word is made of its two bytes, and readiness is one bit. -/
theorem receivedBytesDecode : Obligations.ReceivedBytesDecode :=
  ⟨dataWord_toNat, fun w => ⟨_, _, dataWord_bytes w⟩, by decide, fun b => by simp [readyByte_eq], readyByte_mask,
    by decide, by decide⟩

/-! ## The response port (R93) -/

theorem rspPort_err (r : Rsp) : (rspPort r).extractLsb' 32 4 = errCode r.err :=
  BitVec.extractLsb'_append_eq_left

theorem rspPort_data (r : Rsp) : (rspPort r).extractLsb' 0 32 = r.data :=
  BitVec.extractLsb'_append_eq_right

/-- A conversion word loses no bit in a response. -/
theorem rawData_toNat (raw : Word16) : (rawData raw).toNat = raw.toNat :=
  BitVec.toNat_setWidth_of_le (by decide)

/-- Settles O46: code and data are read back, and each kind of data is as R93 gives it. -/
theorem responsePortLayout : Obligations.ResponsePortLayout :=
  ⟨fun r => ⟨rspPort_err r, rspPort_data r⟩, rawData_toNat, rfl, rfl, rfl⟩

end Sys2Proof.Machine
end

section
/-! PROOFS. Command words (R88, R89, R90): the decoder reads exactly the ten rows, and it and the encoder are inverse. -/

namespace Sys2Proof

open Laws.RoundTrip

/-! ## Encoding, then decoding -/

/-- R88, R89: the word of every command lies in the command's row and decodes to the command. -/
theorem encode_roundTrip (i : Instr) : Statement i := by
  cases i with
  | construct => exact construct
  | select sel ch dir => exact select sel ch dir
  | wrclk clkdis div rate => exact wrclk clkdis div rate
  | wrsetup mode gain pol buf fsync => exact wrsetup mode gain pol buf fsync
  | rdconv => exact rdconv
  | read ch => exact read ch
  | readv ch reference => exact readv ch reference
  | drdy ch => exact drdy ch
  | reset => exact reset
  | init ch div pol gain rate => exact init ch div pol gain rate

theorem row_selects_encode (i : Instr) : i.row.selects (encode i) = true := (encode_roundTrip i).1

@[simp] theorem decode_encode (i : Instr) : decode (encode i) = .ok i := (encode_roundTrip i).2

/-- Settles O6: the round trip of every command. -/
theorem encodedCommandDecodesBack : Obligations.EncodedCommandDecodesBack := decode_encode

/-! ## The ten rows -/

theorem Row.selects_iff {r : Row} {w : Word32} : r.selects w = true ↔ w &&& r.mask = r.pattern := decide_eq_true_iff

theorem row_mem_all (i : Instr) : i.row ∈ Row.all := by cases i <;> simp [Instr.row, Row.all]

/-- The ten rows are those of the ten commands. -/
theorem exists_row_eq {r : Row} (hr : r ∈ Row.all) : ∃ i : Instr, i.row = r := by
  simp only [Row.all, List.mem_cons, List.not_mem_nil, or_false] at hr
  rcases hr with rfl | rfl | rfl | rfl | rfl | rfl | rfl | rfl | rfl | rfl
  · exact ⟨.construct, rfl⟩
  · exact ⟨.select 0 0 0, rfl⟩
  · exact ⟨.wrclk 0 0 0, rfl⟩
  · exact ⟨.wrsetup 0 0 0 0 0, rfl⟩
  · exact ⟨.rdconv, rfl⟩
  · exact ⟨.read 0, rfl⟩
  · exact ⟨.readv 0 0, rfl⟩
  · exact ⟨.drdy 0, rfl⟩
  · exact ⟨.reset, rfl⟩
  · exact ⟨.init 0 0 0 0 0, rfl⟩

/-- The rows differ in their opcodes, so a word has at most one. -/
theorem selects_eq_decide {r r' : Row} (hr : r ∈ Row.all) (hr' : r' ∈ Row.all) {w : Word32} (h : r.selects w = true) :
    r'.selects w = decide (r' = r) := by
  have opcodes_differ : ∀ r ∈ Row.all, ∀ r' ∈ Row.all,
      r'.pattern.extractLsb' 28 4 = r.pattern.extractLsb' 28 4 → r' = r := by decide
  by_cases he : r' = r
  · simp [he, h]
  · rw [decide_eq_false he]
    exact not_selects hr' (opcode_of_selects hr h) fun hop => he (opcodes_differ r hr r' hr' hop)

/-- Opcodes 0xA to 0xF have no row. -/
theorem not_selects_of_reserved {w : Word32} (h : 0xA#4 ≤ w.extractLsb' 28 4) : ∀ r ∈ Row.all, r.selects w = false := by
  have opcodes_below : ∀ r ∈ Row.all, ¬ 0xA#4 ≤ r.pattern.extractLsb' 28 4 := by decide
  intro r hr
  exact not_selects hr rfl fun hop => opcodes_below r hr (hop ▸ h)

/-- `cw[31:28]`, as the number above the low 28 bits. -/
theorem reserved_iff (w : Word32) : 0xA#4 ≤ w.extractLsb' 28 4 ↔ 0xA ≤ (w >>> 28).toNat := by
  have hw := w.isLt
  rw [BitVec.le_def, BitVec.extractLsb'_toNat, BitVec.toNat_ushiftRight, Nat.shiftRight_eq_div_pow]
  simp only [BitVec.toNat_ofNat]
  omega

/-! ## What the decoder answers -/

/-- The command of the same row as `i` whose operands are the fields of `w` (R89). -/
def Instr.operandsFrom (w : Word32) : Instr → Instr
  | .construct => .construct
  | .select _ _ _ => .select (w.extractLsb' 4 3) (w.extractLsb' 0 2) (w.extractLsb' 3 1)
  | .wrclk _ _ _ => .wrclk (w.extractLsb' 4 1) (w.extractLsb' 3 1) (w.extractLsb' 0 3)
  | .wrsetup _ _ _ _ _ =>
    .wrsetup (w.extractLsb' 6 2) (w.extractLsb' 3 3) (w.extractLsb' 2 1) (w.extractLsb' 1 1) (w.extractLsb' 0 1)
  | .rdconv => .rdconv
  | .read _ => .read (w.extractLsb' 0 2)
  | .readv _ _ => .readv (w.extractLsb' 0 2) (w.extractLsb' 8 16)
  | .drdy _ => .drdy (w.extractLsb' 0 2)
  | .reset => .reset
  | .init _ _ _ _ _ =>
    .init (w.extractLsb' 0 2) (w.extractLsb' 11 1) (w.extractLsb' 12 1) (w.extractLsb' 13 3) (w.extractLsb' 8 3)

@[simp] theorem row_operandsFrom (w : Word32) (i : Instr) : (i.operandsFrom w).row = i.row := by cases i <;> rfl

/-- A word that a row selects decodes to a command of that row, with the word's fields as operands. -/
theorem decode_of_selects {w : Word32} {i : Instr} (h : i.row.selects w = true) : decode w = .ok (i.operandsFrom w) := by
  have hs : ∀ r ∈ Row.all, r.selects w = decide (r = i.row) := fun r hr => selects_eq_decide (row_mem_all i) hr h
  simp only [Row.all, List.forall_mem_cons] at hs
  obtain ⟨h0, h1, h2, h3, h4, h5, h6, h7, h8, h9, -⟩ := hs
  unfold decode
  rw [h0, h1, h2, h3, h4, h5, h6, h7, h8, h9]
  cases i <;> rfl

/-- A word that no row selects is rejected, for its opcode or else for a reserved bit. -/
theorem decode_of_no_row {w : Word32} (h : ∀ r ∈ Row.all, r.selects w = false) :
    decode w = .error (if 0xA ≤ (w >>> 28).toNat then .reservedOpcode else .reservedBit) := by
  simp only [Row.all, List.forall_mem_cons] at h
  obtain ⟨h0, h1, h2, h3, h4, h5, h6, h7, h8, h9, -⟩ := h
  simp only [decode, h0, h1, h2, h3, h4, h5, h6, h7, h8, h9, Bool.false_eq_true, if_false, reserved_iff, apply_ite Except.error]

/-- The decoder reads `i` from `w` exactly when `i`'s row selects `w` and `i`'s operands are the fields of `w`. -/
theorem decode_eq_ok_iff {w : Word32} {i : Instr} :
    decode w = .ok i ↔ i.row.selects w = true ∧ i.operandsFrom w = i := by
  constructor
  · intro h
    by_cases hn : ∀ r ∈ Row.all, r.selects w = false
    · simp [decode_of_no_row hn] at h
    · obtain ⟨r, hr, hw⟩ := not_forall₂.mp hn
      obtain ⟨i', rfl⟩ := exists_row_eq hr
      have hs := Bool.ne_false_iff.mp hw
      obtain rfl : i'.operandsFrom w = i := by simpa [decode_of_selects hs] using h
      exact ⟨by simpa using hs, by cases i' <;> rfl⟩
  · rintro ⟨hs, hi⟩
    rw [decode_of_selects hs, hi]

/-- Settles O8: the row that selects a word gives its command; without a row the opcode gives the reason. -/
theorem wordDecodesByItsRow : Obligations.WordDecodesByItsRow := by
  intro w
  refine ⟨fun i h => Row.selects_iff.mp (decode_eq_ok_iff.mp h).1, fun r hr h => ?_, fun h => ?_, fun h => ?_⟩
  · obtain ⟨i, rfl⟩ := exists_row_eq hr
    exact ⟨i.operandsFrom w, decode_of_selects (Row.selects_iff.mpr h), row_operandsFrom w i⟩
  · exact decode_of_no_row fun r hr => Bool.eq_false_iff.mpr fun hs => h r hr (Row.selects_iff.mp hs)
  · rw [decode_of_no_row (not_selects_of_reserved ((reserved_iff w).mpr h)), if_pos h]

/-! ## Decoding, then encoding -/

/-- Two words with the same field agree on its bits. -/
theorem getLsbD_eq_of_field_eq {w w' : Word32} {start len k : Nat} (h : w.extractLsb' start len = w'.extractLsb' start len)
    (hs : start ≤ k) (hk : k < start + len) : w.getLsbD k = w'.getLsbD k := by
  have hb := congrArg (·.getLsbD (k - start)) h
  simpa [BitVec.getLsbD_extractLsb', show k - start < len by omega, Nat.add_sub_cancel' hs] using hb

/-- The places of a command's operands (R89): start and length of each field. -/
def Instr.fields : Instr → List (Nat × Nat)
  | .construct => []
  | .select _ _ _ => [(4, 3), (0, 2), (3, 1)]
  | .wrclk _ _ _ => [(4, 1), (3, 1), (0, 3)]
  | .wrsetup _ _ _ _ _ => [(6, 2), (3, 3), (2, 1), (1, 1), (0, 1)]
  | .rdconv => []
  | .read _ => [(0, 2)]
  | .readv _ _ => [(0, 2), (8, 16)]
  | .drdy _ => [(0, 2)]
  | .reset => []
  | .init _ _ _ _ _ => [(0, 2), (11, 1), (12, 1), (13, 3), (8, 3)]

/-- R89, R90: every bit of a word is fixed by the row or lies in a field. -/
theorem mask_or_field (i : Instr) :
    ∀ k < 32, i.row.mask.getLsbD k = true ∨ ∃ f ∈ i.fields, f.1 ≤ k ∧ k < f.1 + f.2 := by
  cases i <;> simp only [Instr.row, Instr.fields] <;> decide

/-- Words that give a command the same operands have the same fields. -/
theorem fields_eq_of_operandsFrom_eq {w w' : Word32} {i : Instr} (h : i.operandsFrom w = i.operandsFrom w') :
    ∀ f ∈ i.fields, w.extractLsb' f.1 f.2 = w'.extractLsb' f.1 f.2 := by
  revert h
  cases i <;> simp [Instr.operandsFrom, Instr.fields]

/-- A command has one word. -/
theorem decode_ok_injective {w w' : Word32} {i : Instr} (h : decode w = .ok i) (h' : decode w' = .ok i) : w = w' := by
  obtain ⟨hs, hi⟩ := decode_eq_ok_iff.mp h
  obtain ⟨hs', hi'⟩ := decode_eq_ok_iff.mp h'
  have hmask : w &&& i.row.mask = w' &&& i.row.mask := (Row.selects_iff.mp hs).trans (Row.selects_iff.mp hs').symm
  have hfields := fields_eq_of_operandsFrom_eq (hi.trans hi'.symm)
  refine BitVec.eq_of_getLsbD_eq fun k hk => ?_
  rcases mask_or_field i k hk with hm | ⟨f, hf, hle, hlt⟩
  · simpa [hm] using congrArg (·.getLsbD k) hmask
  · exact getLsbD_eq_of_field_eq (hfields f hf) hle hlt

/-- Settles O7: the command's word decodes to the command too, and a command has one word. -/
theorem decodedWordIsTheCommandsWord : Obligations.DecodedWordIsTheCommandsWord :=
  fun _ i h => decode_ok_injective (decode_encode i) h

/-- Settles O9: each word is evaluated by the decoder. -/
theorem exampleWordsDecode : Obligations.ExampleWordsDecode := by
  unfold Obligations.ExampleWordsDecode; decide

end Sys2Proof
end

section
/-! PROOFS. Whole commands, from the presented word to the response: RESET (R170), and READ and INIT against their expansions
(R92). -/

namespace Sys2Proof.Machine

/-! ## Runs of one presented command -/

/-- What the transport gives after `n` more acts. -/
theorem gives_after (n : Nat) {s t : State} {k m : Nat} {rx : List Byte} (h : s.Gives (n + k) m rx)
    (hs : t.script = List.tail^[n] s.script) (hd : t.draws = s.draws + n) : t.Gives k m rx := by
  induction n generalizing s t k with
  | zero => exact (gives_congr hs hd _ _ _).mpr (by simpa using h)
  | succ n ih =>
    refine ih (s := s.drew) ?_ hs (by rw [hd, State.drew_draws]; omega)
    unfold State.Gives at h ⊢
    rwa [answer_drew, State.drew_draws, show s.draws + 1 + (n + k) = s.draws + (n + 1 + k) by omega,
      show n + k + 1 = n + 1 + k by omega]

/-- A channel operand the machine has makes a command well formed. -/
theorem wf_of_channel {n : ChannelCount} {i : Instr} {ch : Chan} (hi : i.channel? = some ch) (h : ch.toNat < n.toNat) :
    i.wf n = true := by
  simp [Instr.wf, hi, ChannelCount.legal, h]

/-- One step at a label that makes a transfer, when the transport completes it. -/
theorem step_transfers {s : State} {i : Instr} {v : Bool} {l : Label} {tx rx : List Byte} {k : List Byte → State → State}
    (hs : s.At i v l) (hb : bodyOf i ⟨i, v, l⟩ s = some (xfer tx k s)) (hg : s.Gives 0 tx.length rx) :
    step s = .next (k rx (s.exchanged tx rx)) :=
  step_at hs (hb.trans (congrArg some (xfer_gives hg k)))

/-- A framing transfer the transport completes (R52, R65). -/
theorem frameAccess_gives {s : State} {r : Byte} (h : s.Gives 0 1 [r]) (sel : Sel) (ch : Chan) (dir : Bit) (next : Label)
    (q : MicroSeq) : frameAccess sel ch dir next q s =
      { s.exchanged [commByte sel ch dir] [r] with frame := .framed sel ch dir, seq := some { q with label := next } } :=
  xfer_gives (tx := [_]) h _

/-- The status read of a poll the transport completes (R143 Y1). -/
theorem pollRead_gives {s : State} {b : Byte} (h : s.Gives 0 1 [b]) (k : Bool → State → State) :
    pollRead k s = k (readyByte b) { s.exchanged [s.cfg.dummyTx] [b] with frame := .idle } :=
  xfer_gives (tx := [_]) h _

/-- The read of the data word the transport completes (R140 Q0, R141 L3). -/
theorem readWord_gives {s : State} {b0 b1 : Byte} (h : s.Gives 0 2 [b0, b1]) (k : Word16 → State → State) :
    readWord k s = k (dataWord b0 b1) (s.exchanged [s.cfg.dummyTx, s.cfg.dummyTx] [b0, b1]) :=
  xfer_gives (tx := [_, _]) h _

/-- The state in which a presented command starts that passes every check in order (R100). -/
def State.started (s : State) (i : Instr) (rest : List Word32) : State :=
  { s with cmds := rest, life := .busy, seq := some ⟨i, false, firstLabel i⟩, pollCount := 0 }

theorem started_at (s : State) (i : Instr) (rest : List Word32) : (s.started i rest).At i false (firstLabel i) :=
  ⟨rfl, rfl⟩

/-- The host presents `i` next, to an idle block whose checks it passes in order (R100, R103). -/
structure Presents (s : State) (i : Instr) (rest : List Word32) : Prop where
  ready : s.life = .ready
  word : s.cmds = encode i :: rest
  built : i ≠ .construct
  legal : i.wf s.cfg.numChannels = true
  framed : frameOk s.cfg.codes.sel s.frame i = true

section
variable {s : State} {i : Instr} {rest : List Word32} {n : Nat} {o : Outcome}

theorem Presents.begins (h : Presents s i rest) : step s = .next (s.started i rest) :=
  step_begins h.ready h.built h.word (decode_encode i) h.legal h.framed

/-- A presented command, and the run of it once started. -/
theorem Presents.runs (h : Presents s i rest) (hr : stepN n (s.started i rest) = o) : stepN (n + 1) s = o :=
  (stepN_succ h.begins n).trans hr

/-- A presented command that is done after one transfer. -/
theorem Presents.transfers {tx rx : List Byte} {k : List Byte → State → State} (h : Presents s i rest)
    (hb : bodyOf i ⟨i, false, firstLabel i⟩ (s.started i rest) = some (xfer tx k (s.started i rest)))
    (hg : s.Gives 0 tx.length rx) : stepN 2 s = .next (k rx ((s.started i rest).exchanged tx rx)) :=
  h.runs (stepN_one (step_transfers (started_at s i rest) hb hg))

/-- SELECT (R102), presented in order. -/
theorem select_runs {sel : Sel} {ch : Chan} {dir : Bit} {r : Byte} (h : Presents s (.select sel ch dir) rest)
    (hg : s.Gives 0 1 [r]) : stepN 2 s = .next { s.exchanged [commByte sel ch dir] [r] with
      cmds := rest, pollCount := 0, frame := .framed sel ch dir, rsp := some ⟨.none, 0⟩, life := .ready, seq := none } :=
  (h.transfers rfl hg).trans rfl

/-- WRCLK (R120), presented in order. -/
theorem wrclk_runs {clkdis div : Bit} {rate : BitVec 3} {r : Byte} (h : Presents s (.wrclk clkdis div rate) rest)
    (hg : s.Gives 0 1 [r]) : stepN 2 s = .next { s.exchanged [clockByte clkdis div rate] [r] with
      cmds := rest, pollCount := 0, frame := .idle, rsp := some ⟨.none, 0⟩, life := .ready, seq := none } :=
  (h.transfers rfl hg).trans rfl

/-- WRSETUP (R121), presented in order. -/
theorem wrsetup_runs {mode : BitVec 2} {gain : BitVec 3} {pol buf fsync : Bit} {r : Byte}
    (h : Presents s (.wrsetup mode gain pol buf fsync) rest) (hg : s.Gives 0 1 [r]) :
    stepN 2 s = .next { s.exchanged [setupByte mode gain pol buf fsync] [r] with
      cmds := rest, pollCount := 0, frame := .idle, rsp := some ⟨.none, 0⟩, life := .ready, seq := none } :=
  (h.transfers rfl hg).trans rfl

/-- RDCONV (R140), presented in order. -/
theorem rdconv_runs {d0 d1 : Byte} (h : Presents s .rdconv rest) (hg : s.Gives 0 2 [d0, d1]) :
    stepN 2 s = .next { s.exchanged [s.cfg.dummyTx, s.cfg.dummyTx] [d0, d1] with
      cmds := rest, pollCount := 0, frame := .idle, rsp := some ⟨.none, rawData (dataWord d0 d1)⟩, life := .ready
      seq := none } :=
  (h.transfers rfl hg).trans rfl

/-- DRDY (R143), presented in order: one poll. -/
theorem drdy_runs {ch : Chan} {x b : Byte} (h : Presents s (.drdy ch) rest) (h0 : s.Gives 0 1 [x]) (h1 : s.Gives 1 1 [b]) :
    stepN 3 s = .next { (s.exchanged [commByte s.cfg.codes.sel.comm ch 1] [x]).exchanged [s.cfg.dummyTx] [b] with
      cmds := rest, pollCount := 0, frame := .idle, rsp := some ⟨.none, readyData (readyByte b)⟩, life := .ready
      seq := none } := by
  have hy0 := step_at (started_at s (.drdy ch) rest)
    (congrArg some (frameAccess_gives (s := s.started (.drdy ch) rest) h0 _ ch 1 .y1 _))
  refine h.runs ((stepN_succ hy0 1).trans (stepN_one ?_))
  exact step_at (i := .drdy ch) (v := false) (l := .y1) ⟨rfl, rfl⟩
    (congrArg some (pollRead_gives (gives_after 1 h1 rfl rfl) _))

end

/-! ## RESET (R76, R170) -/

/-- The state after `k` SYNC bytes, but for RESET's counter. -/
def synced (r : Nat → Byte) (s : State) : Nat → State
  | 0 => s
  | k + 1 => (synced r s k).exchanged [syncByte] [r k]

section
variable {r : Nat → Byte} {s : State}

@[simp] theorem synced_life (k : Nat) : (synced r s k).life = s.life := by
  induction k with | zero => rfl | succ k ih => exact ih
@[simp] theorem synced_fault (k : Nat) : (synced r s k).fault = s.fault := by
  induction k with | zero => rfl | succ k ih => exact ih
@[simp] theorem synced_cfg (k : Nat) : (synced r s k).cfg = s.cfg := by
  induction k with | zero => rfl | succ k ih => exact ih
@[simp] theorem synced_cmds (k : Nat) : (synced r s k).cmds = s.cmds := by
  induction k with | zero => rfl | succ k ih => exact ih
theorem synced_cs {k : Nat} (hk : k ≠ 0) : (synced r s k).cs = 1 := by
  obtain ⟨j, rfl⟩ := Nat.exists_eq_succ_of_ne_zero hk
  rfl
theorem synced_trace (k : Nat) :
    (synced r s k).trace = s.trace ++ (List.range k).map fun j => ⟨[syncByte], [r j]⟩ := by
  induction k with
  | zero => simp [synced]
  | succ k ih => simp [synced, ih, List.range_succ]
theorem synced_gives (k j n : Nat) (rx : List Byte) : (synced r s k).Gives j n rx ↔ s.Gives (k + j) n rx := by
  induction k generalizing j with
  | zero => simp [synced]
  | succ k ih => rw [synced, gives_exchanged, ih, Nat.add_right_comm, Nat.add_assoc]

/-- One SYNC byte (R170 Z1). -/
theorem reset_sync {v : Bool} {i : Nat} {x : Byte} (hs : s.At .reset v (.z1 i)) (hi : i < resetCount) (hg : s.Gives 0 1 [x]) :
    step s = .next { s.exchanged [syncByte] [x] with seq := some ⟨.reset, v, .z1 (i + 1)⟩ } :=
  (step_transfers (tx := [syncByte]) (rx := [x]) hs (congrArg some (if_pos hi)) hg).trans rfl

/-- RESET after its last SYNC byte (R170 Z1, Z2). -/
theorem reset_ends {v : Bool} {n : Nat} (hs : s.At .reset v (.z1 n)) (hn : ¬ n < resetCount) : stepN 2 s = .next { s with
    frame := .idle, chan := .replicate .uninit, chip := resyncChip s.draws, draws := s.draws + 1
    rsp := some ⟨.none, 0⟩, life := .ready, seq := none } :=
  (stepN_succ (step_at hs (congrArg some (if_neg hn))) 1).trans
    (stepN_one (step_at (i := .reset) (v := v) (l := .z2) ⟨hs.1, rfl⟩ rfl))

/-- The first `k` SYNC bytes. -/
theorem reset_syncs {v : Bool} (hs : s.At .reset v (.z1 0)) (k : Nat) (hk : k ≤ resetCount)
    (hg : ∀ j < k, s.Gives j 1 [r j]) :
    stepN k s = .next { synced r s k with seq := some ⟨.reset, v, .z1 k⟩ } := by
  induction k with
  | zero => rw [← hs.2]; rfl
  | succ k ih =>
    have hrun := ih (by omega) fun j hj => hg j (by omega)
    have hgives : (synced r s k).Gives 0 1 [r k] := (synced_gives k 0 _ _).mpr (hg k (by omega))
    exact stepN_then hrun (stepN_one (reset_sync ⟨(synced_life k).trans hs.1, rfl⟩ hk hgives))

/-- Whole RESET: acceptance and Z0, the SYNC bytes, and the end.  (`n` for the count, which no step then computes with.) -/
theorem reset_runs {rest : List Word32} {n : Nat} (hn : n = resetCount) (hp : Presents s .reset rest)
    (hg : ∀ j < n, s.Gives j 1 [r j]) :
    ∃ u, u.trace = s.trace ∧ u.fault = s.fault ∧ u.cfg = s.cfg ∧ u.cmds = rest ∧
      stepN (1 + (n + 2) + 1) s = .next { synced r u n with
        frame := .idle, chan := .replicate .uninit, chip := resyncChip (synced r u n).draws
        draws := (synced r u n).draws + 1, rsp := some ⟨.none, 0⟩, life := .ready, seq := none } := by
  let u := (s.started .reset rest).goto ⟨.reset, false, .z0⟩ (.z1 0)
  have hz0 : step (s.started .reset rest) = .next u := step_at (started_at s .reset rest) rfl
  have hz1 := reset_syncs (r := r) (s := u) (v := false) ⟨rfl, rfl⟩ n hn.le hg
  have hz2 := reset_ends (s := { synced r u n with seq := some ⟨.reset, false, .z1 n⟩ }) (v := false) (n := n)
    ⟨synced_life n, rfl⟩ (by omega)
  exact ⟨u, rfl, rfl, rfl, rfl, hp.runs (stepN_then (stepN_one hz0) (stepN_then hz1 hz2))⟩

end

/-- Settles O34: the hundred SYNC bytes are RESET's only transfers, and its last step sets the rest. -/
theorem resetSendsHundredSyncBytes : Obligations.ResetSendsHundredSyncBytes := by
  intro s rest r hl hc hg
  obtain ⟨u, htrace, hfault, hcfg, hcmds, hrun⟩ := reset_runs (r := r) (n := 100) rfl ⟨hl, hc, by simp, rfl, rfl⟩ hg
  refine ⟨_, hrun, ?_, rfl, PerChan.get_replicate _, rfl, rfl, rfl, synced_cs (by decide), ?_, ?_, ?_, rfl⟩
  · simp [synced_trace, htrace, syncByte]
  · simpa using hfault
  · simpa using hcfg
  · simpa using hcmds

/-! ## The host's own polls (R92) -/

section
variable {ch : Chan} {a st : Nat → Byte} {s : State}

theorem polled_succ (k : Nat) : polled ch a st s (k + 1) =
    { ((polled ch a st s k).exchanged [commByte (polled ch a st s k).cfg.codes.sel.comm ch 1] [a k]).exchanged
      [(polled ch a st s k).cfg.dummyTx] [st k] with frame := .idle } := by
  rw [polled_cfg]; rfl

/-- `k` DRDY commands, presented one after another, make `k` polls; each leaves a response of its own. -/
theorem drdys_run {rest : List Word32} (k : Nat) (hl : s.life = .ready) (hf : s.frame = .idle)
    (hch : ch.toNat < s.cfg.numChannels.toNat) (hc : s.cmds = List.replicate k (encode (.drdy ch)) ++ rest)
    (hg : s.GivesPolls 0 k a st) :
    ∃ q n r, stepN (3 * k) s = .next { polled ch a st s k with
      cmds := rest, life := .ready, seq := q, pollCount := n, rsp := r } := by
  induction k generalizing rest with
  | zero =>
    refine ⟨s.seq, s.pollCount, s.rsp, ?_⟩
    rw [← hl, ← show s.cmds = rest from hc]
    rfl
  | succ k ih =>
    rw [List.replicate_succ', List.append_assoc] at hc
    obtain ⟨q, n, r, hrun⟩ := ih hc fun j hj => hg j (by omega)
    obtain ⟨hcomm, hstatus⟩ := hg k (by omega)
    have hlast := drdy_runs (rest := rest) (x := a k) (b := st k) (ch := ch)
      (s := { polled ch a st s k with
        cmds := encode (.drdy ch) :: rest, life := .ready, seq := q, pollCount := n, rsp := r })
      ⟨rfl, rfl, by simp, wf_of_channel rfl (by simpa using hch), by simpa [frameOk] using polled_frame k hf⟩
      ((polled_gives k 0 _ _).mpr (by simpa using hcomm)) ((polled_gives k 1 _ _).mpr (by simpa using hstatus))
    refine ⟨none, 0, some ⟨.none, readyData (readyByte (st k))⟩, (stepN_then hrun hlast).trans ?_⟩
    rw [polled_succ]
    rfl

/-- The words still to come do not bear on polls. -/
theorem polled_withCmds (c : List Word32) (k : Nat) :
    polled ch a st { s with cmds := c } k = { polled ch a st s k with cmds := c } :=
  (polled_with c s.life s.seq s.pollCount s.rsp s.chan k).trans (by simp)

/-! ## READ and its expansion (R92, R141) -/

/-- The state after the data access that ends READ, and the host's SELECT DATA and RDCONV. -/
def State.wordRead (s : State) (ch : Chan) (c d0 d1 : Byte) : State :=
  { (s.exchanged [commByte s.cfg.codes.sel.data ch 1] [c]).exchanged [s.cfg.dummyTx, s.cfg.dummyTx] [d0, d1] with
    frame := .idle, rsp := some ⟨.none, rawData (dataWord d0 d1)⟩, life := .ready, seq := none }

/-- READ from its ready poll on (R141 L1 to L3). -/
theorem read_word {c d0 d1 : Byte} (hs : s.At (.read ch) false (.l1 true)) (h0 : s.Gives 0 1 [c]) (h1 : s.Gives 1 2 [d0, d1]) :
    stepN 3 s = .next (s.wordRead ch c d0 d1) := by
  let q : MicroSeq := ⟨.read ch, false, .l1 true⟩
  have hl1 : step s = .next (s.goto q .l2) := step_at hs rfl
  have hl2 := step_at (s := s.goto q .l2) (i := .read ch) (v := false) (l := .l2) ⟨hs.1, rfl⟩
    (congrArg some (frameAccess_gives (s := s.goto q .l2) h0 _ ch 1 .l3 _))
  refine (stepN_succ hl1 2).trans ((stepN_succ hl2 1).trans (stepN_one ?_))
  exact step_at (i := .read ch) (v := false) (l := .l3) ⟨hs.1, rfl⟩
    (congrArg some (readWord_gives (gives_after 1 h1 rfl rfl) _))

/-- The polls of a command on its way from the state `s`, but for what the command keeps of its own: `k` unready ones, then a
ready one. -/
theorem polls_ready_with {i : Instr} {p y : Label} {l : Bool → Label} (h : Polls ch i p y l) (s : State) (c : List Word32)
    (x : PerChan ChanState) (k : Nat) (hb : ∀ n, s.cfg.pollBound = some n → k < n) (hg : s.GivesPolls 0 (k + 1) a st)
    (hu : ∀ j < k, (st j).getLsbD 7 = true) (hr : (st k).getLsbD 7 = false) :
    stepN (3 * k + 2) { s with cmds := c, life := .busy, seq := some ⟨i, false, p⟩, pollCount := 0, chan := x } =
      .next { polled ch a st s (k + 1) with
        cmds := c, life := .busy, seq := some ⟨i, false, l true⟩, pollCount := k, chan := x } := by
  have hrun := polls_ready (v := false)
    (s := { s with cmds := c, life := .busy, seq := some ⟨i, false, p⟩, pollCount := 0, chan := x })
    h ⟨rfl, rfl⟩ k (fun n hn => (Nat.zero_add k).symm ▸ hb n hn) hg hu hr
  rw [polled_with c .busy _ 0 s.rsp x] at hrun
  simpa using hrun

/-- Whole READ, with `k` unready polls. -/
theorem read_runs {rest : List Word32} {k : Nat} {c d0 d1 : Byte} (hp : Presents s (.read ch) rest)
    (hb : ∀ n, s.cfg.pollBound = some n → k < n) (hg : s.GivesPolls 0 (k + 1) a st)
    (hu : ∀ j < k, (st j).getLsbD 7 = true) (hr : (st k).getLsbD 7 = false)
    (h0 : s.Gives (2 * k + 2) 1 [c]) (h1 : s.Gives (2 * k + 3) 2 [d0, d1]) :
    stepN (3 * k + 6) s =
      .next { (polled ch a st s (k + 1)).wordRead ch c d0 d1 with cmds := rest, pollCount := k } := by
  have hpolls := polls_ready_with (.read (ch := ch)) s rest s.chan k hb hg hu hr
  have hword := read_word (ch := ch) (c := c) (d0 := d0) (d1 := d1) (s := { polled ch a st s (k + 1) with
      cmds := rest, life := .busy, seq := some ⟨.read ch, false, .l1 true⟩, pollCount := k, chan := s.chan })
    ⟨rfl, rfl⟩ ((polled_gives (k + 1) 0 _ _).mpr h0) ((polled_gives (k + 1) 1 _ _).mpr h1)
  rw [show 3 * k + 6 = 3 * k + 2 + 3 + 1 by omega]
  exact (hp.runs (stepN_then hpolls hword)).trans (by simp [State.wordRead])

/-- SELECT DATA, ch, R and RDCONV, presented one after the other. -/
theorem select_rdconv_run {rest : List Word32} {c d0 d1 : Byte} (hl : s.life = .ready) (hf : s.frame = .idle)
    (hch : ch.toNat < s.cfg.numChannels.toNat)
    (hc : s.cmds = encode (.select s.cfg.codes.sel.data ch 1) :: encode .rdconv :: rest)
    (h0 : s.Gives 0 1 [c]) (h1 : s.Gives 1 2 [d0, d1]) :
    stepN 4 s = .next { s.wordRead ch c d0 d1 with cmds := rest, pollCount := 0 } :=
  stepN_then (select_runs ⟨hl, hc, by simp, wf_of_channel rfl hch, by simp [frameOk, hf]⟩ h0)
    (rdconv_runs ⟨rfl, rfl, by simp, rfl, by simp [frameOk]⟩ (gives_after 1 h1 rfl rfl))

/-- Settles O40: both runs make the same polls, then the same data access. -/
theorem readEqualsItsExpansion : Obligations.ReadEqualsItsExpansion := by
  intro s ch k a st c d0 d1 hl hf hch hb hg hu hr h0 h1
  have hread := read_runs (s := { s with cmds := [encode (.read ch)] })
    ⟨hl, rfl, by simp, wf_of_channel rfl hch, by simp [frameOk, hf]⟩ hb hg hu hr h0 h1
  obtain ⟨q, n, r, hpolls⟩ := drdys_run (s := { s with cmds := List.replicate (k + 1) (encode (.drdy ch)) ++
    [encode (.select s.cfg.codes.sel.data ch 1), encode .rdconv] }) (k + 1) hl hf hch rfl hg
  rw [polled_withCmds] at hread hpolls
  have hword := select_rdconv_run (rest := []) (ch := ch) (c := c) (d0 := d0) (d1 := d1)
    (s := { polled ch a st s (k + 1) with
      cmds := [encode (.select s.cfg.codes.sel.data ch 1), encode .rdconv], life := .ready, seq := q, pollCount := n, rsp := r })
    rfl rfl (by simpa using hch) (by simp) ((polled_gives (k + 1) 0 _ _).mpr h0) ((polled_gives (k + 1) 1 _ _).mpr h1)
  exact ⟨_, _, hread, stepN_then hpolls hword, rfl⟩

/-! ## INIT and its expansion (R92, R171) -/

/-- The state after the four register transfers of INIT, and of the host's SELECT CLOCK, WRCLK, SELECT SETUP and WRSETUP. -/
def State.configured (s : State) (ch : Chan) (clk setup r0 r1 r2 r3 : Byte) : State :=
  { (((s.exchanged [commByte s.cfg.codes.sel.clock ch 0] [r0]).exchanged [clk] [r1]).exchanged
      [commByte s.cfg.codes.sel.setup ch 0] [r2]).exchanged [setup] [r3] with frame := .idle }

variable {div pol : Bit} {gain rate : BitVec 3} {rest : List Word32} {r0 r1 r2 r3 : Byte}

theorem configured_gives {clk setup : Byte} {k n : Nat} {rx : List Byte} (h : s.Gives (4 + k) n rx) :
    (s.configured ch clk setup r0 r1 r2 r3).Gives k n rx := gives_after 4 h rfl rfl

theorem configured_givesPolls {clk setup : Byte} {k : Nat} (h : s.GivesPolls 4 k a st) :
    (s.configured ch clk setup r0 r1 r2 r3).GivesPolls 0 k a st := fun j hj => by
  obtain ⟨hcomm, hstatus⟩ := h j hj
  rw [Nat.zero_add]
  exact ⟨configured_gives hcomm, configured_gives hstatus⟩

theorem configured_withCmds {clk setup : Byte} (c : List Word32) :
    State.configured { s with cmds := c } ch clk setup r0 r1 r2 r3 =
      { s.configured ch clk setup r0 r1 r2 r3 with cmds := c } := rfl

/-- INIT up to its first poll (R171 I0 to I3). -/
theorem init_configures (hp : Presents s (.init ch div pol gain rate) rest)
    (h0 : s.Gives 0 1 [r0]) (h1 : s.Gives 1 1 [r1]) (h2 : s.Gives 2 1 [r2]) (h3 : s.Gives 3 1 [r3]) :
    stepN 5 s = .next { s.configured ch (clockByte 0 div rate) (setupByte s.cfg.codes.mode.selfCal gain pol 0 0) r0 r1 r2 r3 with
      cmds := rest, life := .busy, seq := some ⟨.init ch div pol gain rate, false, .i4y0⟩, pollCount := 0
      chan := s.chan.set ch .calibrating } := by
  have hi0 := step_at (started_at s (.init ch div pol gain rate) rest)
    (congrArg some (frameAccess_gives (s := s.started _ rest) h0 _ ch 0 .i1 _))
  refine hp.runs ((stepN_succ hi0 3).trans ?_)
  refine (stepN_succ (step_at (i := .init ch div pol gain rate) (v := false) (l := .i1) ⟨rfl, rfl⟩
    (congrArg some (xfer_gives (tx := [_]) (gives_after 1 h1 rfl rfl) _))) 2).trans ?_
  refine (stepN_succ (step_at (i := .init ch div pol gain rate) (v := false) (l := .i2) ⟨rfl, rfl⟩
    (congrArg some (frameAccess_gives (gives_after 2 h2 rfl rfl) _ ch 0 .i3 _))) 1).trans ?_
  exact stepN_one (step_at (i := .init ch div pol gain rate) (v := false) (l := .i3) ⟨rfl, rfl⟩
    (congrArg some (xfer_gives (tx := [_]) (gives_after 3 h3 rfl rfl) _)))

/-- INIT from its ready poll on (R171 I5, I6). -/
theorem init_ends (hs : s.At (.init ch div pol gain rate) false (.i5 true)) : stepN 2 s = .next { s with
    chan := s.chan.set ch .ready, frame := .idle, rsp := some ⟨.none, 0⟩, life := .ready, seq := none } :=
  (stepN_succ (step_at hs rfl) 1).trans
    (stepN_one (step_at (i := .init ch div pol gain rate) (v := false) (l := .i6) ⟨hs.1, rfl⟩ rfl))

/-- Whole INIT, with `k` unready polls. -/
theorem init_runs {k : Nat} (hp : Presents s (.init ch div pol gain rate) rest)
    (hb : ∀ n, s.cfg.pollBound = some n → k < n)
    (h0 : s.Gives 0 1 [r0]) (h1 : s.Gives 1 1 [r1]) (h2 : s.Gives 2 1 [r2]) (h3 : s.Gives 3 1 [r3])
    (hg : s.GivesPolls 4 (k + 1) a st) (hu : ∀ j < k, (st j).getLsbD 7 = true) (hr : (st k).getLsbD 7 = false) :
    stepN (3 * k + 9) s = .next { polled ch a st
        (s.configured ch (clockByte 0 div rate) (setupByte s.cfg.codes.mode.selfCal gain pol 0 0) r0 r1 r2 r3) (k + 1) with
      cmds := rest, pollCount := k, chan := (s.chan.set ch .calibrating).set ch .ready, rsp := some ⟨.none, 0⟩
      life := .ready, seq := none } := by
  have hpolls := polls_ready_with (.init div pol gain rate (ch := ch)) (s.configured ch (clockByte 0 div rate)
    (setupByte s.cfg.codes.mode.selfCal gain pol 0 0) r0 r1 r2 r3) rest (s.chan.set ch .calibrating) k hb
    (configured_givesPolls hg) hu hr
  rw [show 3 * k + 9 = 5 + (3 * k + 2 + 2) by omega]
  exact stepN_then (init_configures hp h0 h1 h2 h3) (stepN_then hpolls (init_ends ⟨rfl, rfl⟩))

/-- SELECT CLOCK, ch, W; WRCLK 0, div, rate; SELECT SETUP, ch, W; WRSETUP, presented one after the other. -/
theorem writes_run {mode : BitVec 2} (hl : s.life = .ready) (hf : s.frame = .idle) (hch : ch.toNat < s.cfg.numChannels.toNat)
    (hc : s.cmds = encode (.select s.cfg.codes.sel.clock ch 0) :: encode (.wrclk 0 div rate) ::
      encode (.select s.cfg.codes.sel.setup ch 0) :: encode (.wrsetup mode gain pol 0 0) :: rest)
    (h0 : s.Gives 0 1 [r0]) (h1 : s.Gives 1 1 [r1]) (h2 : s.Gives 2 1 [r2]) (h3 : s.Gives 3 1 [r3]) :
    stepN 8 s = .next { s.configured ch (clockByte 0 div rate) (setupByte mode gain pol 0 0) r0 r1 r2 r3 with
      cmds := rest, pollCount := 0, rsp := some ⟨.none, 0⟩, life := .ready, seq := none } :=
  stepN_then (select_runs ⟨hl, hc, by simp, wf_of_channel rfl hch, by simp [frameOk, hf]⟩ h0) <|
  stepN_then (wrclk_runs ⟨rfl, rfl, by simp, rfl, by simp [frameOk]⟩ (gives_after 1 h1 rfl rfl)) <|
  stepN_then (select_runs ⟨rfl, rfl, by simp, wf_of_channel rfl hch, rfl⟩ (gives_after 2 h2 rfl rfl))
    (wrsetup_runs ⟨rfl, rfl, by simp, rfl, by simp [frameOk]⟩ (gives_after 3 h3 rfl rfl))

end

/-- Settles O41: both runs make the same four register transfers, then the same polls. -/
theorem initEqualsItsExpansion : Obligations.InitEqualsItsExpansion := by
  intro s ch div pol gain rate k a st r0 r1 r2 r3 hl hf hch hb h0 h1 h2 h3 hg hu hr
  have hinit := init_runs (s := { s with cmds := [encode (.init ch div pol gain rate)] })
    ⟨hl, rfl, by simp, wf_of_channel rfl hch, by simp [frameOk, hf]⟩ hb h0 h1 h2 h3 hg hu hr
  obtain ⟨q, n, r, hpolls⟩ := drdys_run
    (s := { s.configured ch (clockByte 0 div rate) (setupByte s.cfg.codes.mode.selfCal gain pol 0 0) r0 r1 r2 r3 with
      cmds := List.replicate (k + 1) (encode (.drdy ch)), pollCount := 0, rsp := some ⟨.none, 0⟩, life := .ready
      seq := none })
    (k + 1) rfl rfl hch (List.append_nil _).symm
    (configured_givesPolls (setup := setupByte s.cfg.codes.mode.selfCal gain pol 0 0) (r3 := r3) hg)
  rw [configured_withCmds, polled_withCmds] at hinit
  rw [polled_with _ .ready none 0 (some ⟨.none, 0⟩) (s.configured ch _ _ r0 r1 r2 r3).chan] at hpolls
  exact ⟨_, _, hinit, (congrArg (stepN · _) (Nat.add_comm _ 8)).trans
    (stepN_then (writes_run hl hf hch rfl h0 h1 h2 h3) hpolls), rfl, rfl, rfl, rfl, rfl⟩

end Sys2Proof.Machine
end

section
/-! PROOFS. Presenting a command: the checks of acceptance and what each refuses with (R100, R103, R195), the command that passes
them, and CONSTRUCT and SELECT label by label (R101, R102). -/

namespace Sys2Proof.Machine

/-! ## The step (R100, R11, R21) -/

/-- Settles O16: the running command's step, the two cases of a presented word, and waiting. -/
theorem stepRunsTheDecodedCommand : Obligations.StepRunsTheDecodedCommand :=
  ⟨fun _ _ => step_running, fun _ _ _ _ => step_presents, fun _ _ _ _ => step_illegal, fun _ => step_waits⟩

/-! ## The framing preconditions (R103) -/

section
variable {c : SelCodes} {f : Frame}

theorem frameOk_wrclk_iff {clkdis div : Bit} {rate : BitVec 3} :
    frameOk c f (.wrclk clkdis div rate) = true ↔ ∃ ch, f = .framed c.clock ch 0 :=
  ⟨frameOk_wrclk, by rintro ⟨ch, rfl⟩; simp [frameOk]⟩

theorem frameOk_wrsetup_iff {mode : BitVec 2} {gain : BitVec 3} {pol buf fsync : Bit} :
    frameOk c f (.wrsetup mode gain pol buf fsync) = true ↔ ∃ ch, f = .framed c.setup ch 0 :=
  ⟨frameOk_wrsetup, by rintro ⟨ch, rfl⟩; simp [frameOk]⟩

theorem frameOk_rdconv_iff : frameOk c f .rdconv = true ↔ ∃ ch, f = .framed c.data ch 1 :=
  ⟨frameOk_rdconv, by rintro ⟨ch, rfl⟩; simp [frameOk]⟩

end

/-- Settles O20: row by row; the five commands that frame an access themselves share one row. -/
theorem framingPreconditions : Obligations.FramingPreconditions := fun _ _ =>
  ⟨rfl, rfl, fun _ _ _ => decide_eq_true_iff, fun _ _ _ => frameOk_wrclk_iff, fun _ _ _ _ _ => frameOk_wrsetup_iff,
    frameOk_rdconv_iff, fun _ => decide_eq_true_iff, fun _ => decide_eq_true_iff, fun _ _ => decide_eq_true_iff,
    fun _ _ _ _ _ => decide_eq_true_iff⟩

/-- From UNKNOWN only CONSTRUCT and RESET are in order. -/
theorem frameOk_unknown {c : SelCodes} {i : Instr} (hc : i ≠ .construct) (hr : i ≠ .reset) :
    frameOk c .unknown i = false := by
  cases i with
  | construct => exact absurd rfl hc
  | reset => exact absurd rfl hr
  | _ => rfl

/-! ## The checks of acceptance, in their order (R100, R195) -/

/-- R90: a command is well formed when the channel it names, if it names one, is below NUM_CHANNELS. -/
theorem wf_iff_channel {n : ChannelCount} {i : Instr} : i.wf n = true ↔ ∀ ch, i.channel? = some ch → ch.toNat < n.toNat := by
  cases hc : i.channel? <;> simp [Instr.wf, hc, ChannelCount.legal]

section
variable {s : State} {i : Instr}

/-- A command that fails a check changes `rsp` alone (R195). -/
theorem exec_refused {e : Err} (hl : s.life ≠ .busy) (h : refusalOf s i = some e) :
    exec i s = .next { s with rsp := some ⟨e, 0⟩ } := by
  rw [exec_idle hl, accept_refused h, State.refuse]

theorem refusalOf_aborted (hl : s.life = .aborted) : refusalOf s i = some .aborted := by
  simp [refusalOf, hl]

theorem refusalOf_unbuilt (hl : s.life = .unbuilt) (hi : i ≠ .construct) : refusalOf s i = some .notConstructed := by
  simp [refusalOf, hl, hi]

theorem refusalOf_built (hl : s.life = .ready) : refusalOf s .construct = some .alreadyConstructed := by
  simp [refusalOf, hl]

theorem refusalOf_channel (hl : s.life = .ready) (hi : i ≠ .construct) (hw : i.wf s.cfg.numChannels = false) :
    refusalOf s i = some .illegalChannel := by
  simp [refusalOf, hl, hi, hw]

theorem refusalOf_framing (hl : s.life = .ready) (hi : i ≠ .construct) (hw : i.wf s.cfg.numChannels = true)
    (hf : frameOk s.cfg.codes.sel s.frame i = false) (hs : s.cfg.strictFraming = true) :
    refusalOf s i = some .framingViolation := by
  simp [refusalOf, hl, hi, hw, hf, hs]

end

/-- Settles O18: one refusal for each check, an illegal channel being one that makes the command ill formed. -/
theorem checksRefuseInOrder : Obligations.ChecksRefuseInOrder := by
  intro s i hb
  refine ⟨fun hl => exec_refused hb (refusalOf_aborted hl), fun hl hi => exec_refused hb (refusalOf_unbuilt hl hi), ?_, ?_,
    fun hl hi hch hf hs => exec_refused hb (refusalOf_framing hl hi (wf_iff_channel.mpr hch) hf hs)⟩
  · rintro hl rfl
    exact exec_refused hb (refusalOf_built hl)
  · rintro hl hi ⟨ch, hc, hge⟩
    have hw : ¬ i.wf s.cfg.numChannels = true := fun h => Nat.not_lt.mpr hge (wf_iff_channel.mp h ch hc)
    exact exec_refused hb (refusalOf_channel hl hi (Bool.eq_false_iff.mpr hw))

/-- Settles O19: the conditions are exactly those of acceptance. -/
theorem passingCommandBegins : Obligations.PassingCommandBegins := by
  intro s i hli hch hf
  have hb : s.life ≠ .busy := by rcases hli with ⟨hl, -⟩ | ⟨hl, -⟩ <;> simp [hl]
  rw [exec_idle hb, accept_accepted ((refusalOf_eq_none hb).mpr ⟨hli, wf_iff_channel.mpr hch, hf⟩), State.begin]

/-- Settles O54: the five commands need `frame` IDLE; RESET needs nothing. -/
theorem strictFramingRefusesSecondFraming : Obligations.StrictFramingRefusesSecondFraming := by
  intro s sel ch dir i hl hfr hs hch
  have hb : s.life ≠ .busy := by simp [hl]
  constructor
  · intro hi
    have hf : i ≠ .construct ∧ frameOk s.cfg.codes.sel s.frame i = false := by
      rw [hfr]
      rcases hi with ⟨l, c, d, rfl⟩ | ⟨c, rfl⟩ | ⟨c, rfl⟩ | ⟨c, r, rfl⟩ | ⟨c, d, p, g, r, rfl⟩ <;> exact ⟨nofun, rfl⟩
    exact exec_refused hb (refusalOf_framing hl hf.1 (wf_iff_channel.mpr hch) hf.2 hs)
  · rintro rfl
    exact passingCommandBegins s .reset (.inr ⟨hl, nofun⟩) hch (.inl rfl)

/-! ## CONSTRUCT and SELECT, label by label (R101, R102) -/

/-- One step of a command at its label. -/
theorem exec_at {s t : State} {i : Instr} {v : Bool} {l : Label} (h : s.At i v l) (hb : bodyOf i ⟨i, v, l⟩ s = some t) :
    exec i s = .next t :=
  exec_running h.1 h.2 rfl hb

/-- Settles O22: the drive of the line at K0, which succeeds, and the end at K1. -/
theorem constructCompletes : Obligations.ConstructCompletes :=
  ⟨fun _ _ _ hs ha => exec_at hs (congrArg some (driveCsHigh_ok ha _)), fun _ _ hs => exec_at hs rfl⟩

/-- Settles O23: the one transfer of SELECT, which the transport completes. -/
theorem selectCompletes : Obligations.SelectCompletes := fun _ _ _ _ _ _ hs hg =>
  exec_at hs (congrArg some (xfer_gives (tx := [_]) hg _))

end Sys2Proof.Machine
end

section
/-! PROOFS. Commands out of order (R100, R103): the step such a command takes is the one it takes in order, but for `frame`. -/

namespace Sys2Proof.Machine

/-! ## A command and its out-of-order twin -/

/-- The same position, of a command whose framing precondition failed. -/
def MicroSeq.outOfOrder (q : MicroSeq) : MicroSeq := { q with violated := true }

/-- `u` is `s` but for `frame`, its running command being out of order. -/
def OutOfOrderTwin (s u : State) : Prop := ∃ f, u = { s with frame := f, seq := s.seq.map MicroSeq.outOfOrder }

section
variable {s u : State}

/-! ## What the shared operations make of twins -/

theorem goto_twin (h : OutOfOrderTwin s u) (q : MicroSeq) (l : Label) :
    OutOfOrderTwin (s.goto q l) (u.goto q.outOfOrder l) := by
  obtain ⟨f, rfl⟩ := h
  exact ⟨f, rfl⟩

/-- Each twin ends with a frame of its own. -/
theorem complete_twin (h : OutOfOrderTwin s u) (f f' : Frame) (d : Word32) :
    OutOfOrderTwin (s.complete f d) (u.complete f' d) := by
  obtain ⟨_, rfl⟩ := h
  exact ⟨f', rfl⟩

theorem frame_twin (h : OutOfOrderTwin s u) (f : Frame) : OutOfOrderTwin { s with frame := f } { u with frame := f } := by
  obtain ⟨_, rfl⟩ := h
  exact ⟨f, rfl⟩

theorem chan_twin (h : OutOfOrderTwin s u) (g : PerChan ChanState → PerChan ChanState) :
    OutOfOrderTwin { s with chan := g s.chan } { u with chan := g u.chan } := by
  obtain ⟨f, rfl⟩ := h
  exact ⟨f, rfl⟩

theorem ite_twin {b : Prop} [Decidable b] {s' u' : State} (h : OutOfOrderTwin s u) (h' : OutOfOrderTwin s' u') :
    OutOfOrderTwin (if b then s else s') (if b then u else u') := by
  split
  · exact h
  · exact h'

/-- A transfer whose bytes depend on the parameters alone: the transport answers both twins alike. -/
theorem xfer_twin (h : OutOfOrderTwin s u) (tx : Config → List Byte) {k k' : List Byte → State → State}
    (hk : ∀ rx s u, OutOfOrderTwin s u → OutOfOrderTwin (k rx s) (k' rx u)) :
    OutOfOrderTwin (xfer (tx s.cfg) k s) (xfer (tx u.cfg) k' u) := by
  obtain ⟨f, rfl⟩ := h
  rcases fail_or_gives s (tx s.cfg).length with hf | ⟨rx, hg⟩
  · rw [xfer_fail hf, xfer_fail (by exact hf)]
    exact ⟨f, rfl⟩
  · rw [xfer_gives hg, xfer_gives (by exact hg)]
    exact hk rx _ _ ⟨f, rfl⟩

theorem driveCsHigh_twin (h : OutOfOrderTwin s u) (q : MicroSeq) (l : Label) :
    OutOfOrderTwin (driveCsHigh (fun s => s.goto q l) s) (driveCsHigh (fun s => s.goto q.outOfOrder l) u) := by
  obtain ⟨f, rfl⟩ := h
  cases ha : s.answer 0 with
  | ok bytes =>
    rw [driveCsHigh_ok ha, driveCsHigh_ok (by exact ha)]
    exact ⟨f, rfl⟩
  | fail =>
    rw [driveCsHigh_fail ha, driveCsHigh_fail (by exact ha)]
    exact ⟨f, rfl⟩

/-- Both twins have made the same number of polls. -/
theorem pollAgain_twin (h : OutOfOrderTwin s u) (p : Label) (q : MicroSeq) :
    OutOfOrderTwin (pollAgain p q s) (pollAgain p q.outOfOrder u) := by
  obtain ⟨f, rfl⟩ := h
  exact ite_twin ⟨_, rfl⟩ ⟨f, rfl⟩

theorem frameAccess_twin (h : OutOfOrderTwin s u) (sel : Config → Sel) (ch : Chan) (dir : Bit) (next : Label)
    (q : MicroSeq) :
    OutOfOrderTwin (frameAccess (sel s.cfg) ch dir next q s) (frameAccess (sel u.cfg) ch dir next q.outOfOrder u) :=
  xfer_twin h (fun c => [commByte (sel c) ch dir]) fun _ _ _ h => goto_twin (frame_twin h _) q next

theorem pollFrame_twin (h : OutOfOrderTwin s u) (ch : Chan) (next : Label) (q : MicroSeq) :
    OutOfOrderTwin (pollFrame ch next q s) (pollFrame ch next q.outOfOrder u) :=
  frameAccess_twin h (fun c => c.codes.sel.comm) ch 1 next q

theorem pollRead_twin (h : OutOfOrderTwin s u) {k k' : Bool → State → State}
    (hk : ∀ r s u, OutOfOrderTwin s u → OutOfOrderTwin (k r s) (k' r u)) :
    OutOfOrderTwin (pollRead k s) (pollRead k' u) :=
  xfer_twin h (fun c => [c.dummyTx]) fun _ _ _ h => hk _ _ _ (frame_twin h .idle)

theorem readWord_twin (h : OutOfOrderTwin s u) {k k' : Word16 → State → State}
    (hk : ∀ raw s u, OutOfOrderTwin s u → OutOfOrderTwin (k raw s) (k' raw u)) :
    OutOfOrderTwin (readWord k s) (readWord k' u) :=
  xfer_twin h (fun c => [c.dummyTx, c.dummyTx]) fun _ => hk _

/-! ## The commands, label by label -/

theorem constructBody_twin (h : OutOfOrderTwin s u) (q : MicroSeq) :
    Option.Rel OutOfOrderTwin (constructBody q s) (constructBody q.outOfOrder u) := by
  obtain ⟨i, v, l⟩ := q
  cases l with
  | k0 => exact .some (driveCsHigh_twin h _ _)
  | k1 => exact .some (complete_twin (chan_twin h fun _ => .replicate .uninit) _ _ _)
  | _ => exact .none

theorem selectBody_twin (h : OutOfOrderTwin s u) (sel : Sel) (ch : Chan) (dir : Bit) (q : MicroSeq) :
    Option.Rel OutOfOrderTwin (selectBody sel ch dir q s) (selectBody sel ch dir q.outOfOrder u) := by
  obtain ⟨i, v, l⟩ := q
  cases l with
  | s0 => exact .some (xfer_twin h (fun _ => [commByte sel ch dir]) fun _ _ _ h => complete_twin h _ _ _)
  | _ => exact .none

theorem wrclkBody_twin (h : OutOfOrderTwin s u) (clkdis div : Bit) (rate : BitVec 3) (q : MicroSeq) :
    Option.Rel OutOfOrderTwin (wrclkBody clkdis div rate q s) (wrclkBody clkdis div rate q.outOfOrder u) := by
  obtain ⟨i, v, l⟩ := q
  cases l with
  | w0 => exact .some (xfer_twin h (fun _ => [clockByte clkdis div rate]) fun _ _ _ h => complete_twin h _ _ _)
  | _ => exact .none

theorem wrsetupBody_twin (h : OutOfOrderTwin s u) (mode : BitVec 2) (gain : BitVec 3) (pol buf fsync : Bit) (q : MicroSeq) :
    Option.Rel OutOfOrderTwin (wrsetupBody mode gain pol buf fsync q s)
      (wrsetupBody mode gain pol buf fsync q.outOfOrder u) := by
  obtain ⟨i, v, l⟩ := q
  cases l with
  | t0 => exact .some (xfer_twin h (fun _ => [setupByte mode gain pol buf fsync]) fun _ _ _ h => complete_twin h _ _ _)
  | _ => exact .none

theorem rdconvBody_twin (h : OutOfOrderTwin s u) (q : MicroSeq) :
    Option.Rel OutOfOrderTwin (rdconvBody q s) (rdconvBody q.outOfOrder u) := by
  obtain ⟨i, v, l⟩ := q
  cases l with
  | q0 => exact .some (readWord_twin h fun _ _ _ h => complete_twin h _ _ _)
  | _ => exact .none

/-- The labels READ and READV share, whatever ends the command. -/
theorem readLabels_twin (h : OutOfOrderTwin s u) (ch : Chan) {k k' : Word16 → State → State}
    (hk : ∀ raw s u, OutOfOrderTwin s u → OutOfOrderTwin (k raw s) (k' raw u)) (q : MicroSeq) :
    Option.Rel OutOfOrderTwin (readLabels ch k q s) (readLabels ch k' q.outOfOrder u) := by
  obtain ⟨i, v, l⟩ := q
  cases l with
  | l0y0 => exact .some (pollFrame_twin h _ _ _)
  | l0y1 => exact .some (pollRead_twin h fun _ _ _ h => goto_twin h _ _)
  | l1 ready => exact .some (ite_twin (goto_twin h _ _) (pollAgain_twin h _ _))
  | l2 => exact .some (frameAccess_twin h (fun c => c.codes.sel.data) _ _ _ _)
  | l3 => exact .some (readWord_twin h hk)
  | _ => exact .none

theorem readBody_twin (h : OutOfOrderTwin s u) (ch : Chan) (q : MicroSeq) :
    Option.Rel OutOfOrderTwin (readBody ch q s) (readBody ch q.outOfOrder u) :=
  readLabels_twin h ch (fun raw _ _ h => complete_twin h _ _ (rawData raw)) q

theorem readvBody_twin (h : OutOfOrderTwin s u) (ch : Chan) (reference : Word16) (q : MicroSeq) :
    Option.Rel OutOfOrderTwin (readvBody ch reference q s) (readvBody ch reference q.outOfOrder u) := by
  have shared := readLabels_twin h ch (fun raw _ _ h => goto_twin (frame_twin h .idle) q (.v1 raw)) q
  obtain ⟨i, v, l⟩ := q
  cases l with
  | v1 raw => exact .some (complete_twin h _ _ _)
  | _ => exact shared

theorem drdyBody_twin (h : OutOfOrderTwin s u) (ch : Chan) (q : MicroSeq) :
    Option.Rel OutOfOrderTwin (drdyBody ch q s) (drdyBody ch q.outOfOrder u) := by
  obtain ⟨i, v, l⟩ := q
  cases l with
  | y0 => exact .some (pollFrame_twin h _ _ _)
  | y1 => exact .some (pollRead_twin h fun _ _ _ h => complete_twin h _ _ _)
  | _ => exact .none

theorem resetBody_twin (h : OutOfOrderTwin s u) (q : MicroSeq) :
    Option.Rel OutOfOrderTwin (resetBody q s) (resetBody q.outOfOrder u) := by
  obtain ⟨i, v, l⟩ := q
  cases l with
  | z0 => exact .some (goto_twin h _ _)
  | z1 n => exact .some (ite_twin (xfer_twin h (fun _ => [syncByte]) fun _ _ _ h => goto_twin h _ _) (goto_twin h _ _))
  | z2 =>
    obtain ⟨_, rfl⟩ := h
    exact .some ⟨.idle, rfl⟩
  | _ => exact .none

theorem initBody_twin (h : OutOfOrderTwin s u) (ch : Chan) (div pol : Bit) (gain rate : BitVec 3) (q : MicroSeq) :
    Option.Rel OutOfOrderTwin (initBody ch div pol gain rate q s) (initBody ch div pol gain rate q.outOfOrder u) := by
  obtain ⟨i, v, l⟩ := q
  cases l with
  | i0 => exact .some (frameAccess_twin h (fun c => c.codes.sel.clock) _ _ _ _)
  | i1 =>
    exact .some (xfer_twin h (fun _ => [clockByte 0 div rate]) fun _ _ _ h => goto_twin (frame_twin h .idle) _ _)
  | i2 => exact .some (frameAccess_twin h (fun c => c.codes.sel.setup) _ _ _ _)
  | i3 =>
    exact .some (xfer_twin h (fun c => [setupByte c.codes.mode.selfCal gain pol 0 0]) fun _ _ _ h =>
      goto_twin (chan_twin (frame_twin h .idle) (·.set ch .calibrating)) _ _)
  | i4y0 => exact .some (pollFrame_twin h _ _ _)
  | i4y1 => exact .some (pollRead_twin h fun _ _ _ h => goto_twin h _ _)
  | i5 ready => exact .some (ite_twin (goto_twin h _ _) (pollAgain_twin h _ _))
  | i6 => exact .some (complete_twin (chan_twin h (·.set ch .ready)) _ _ _)
  | _ => exact .none

/-- At every label of every command twins take the same step, or neither has one. -/
theorem bodyOf_twin (h : OutOfOrderTwin s u) (i : Instr) (q : MicroSeq) :
    Option.Rel OutOfOrderTwin (bodyOf i q s) (bodyOf i q.outOfOrder u) := by
  cases i with
  | construct => exact constructBody_twin h q
  | select sel ch dir => exact selectBody_twin h sel ch dir q
  | wrclk clkdis div rate => exact wrclkBody_twin h clkdis div rate q
  | wrsetup mode gain pol buf fsync => exact wrsetupBody_twin h mode gain pol buf fsync q
  | rdconv => exact rdconvBody_twin h q
  | read ch => exact readBody_twin h ch q
  | readv ch reference => exact readvBody_twin h ch reference q
  | drdy ch => exact drdyBody_twin h ch q
  | reset => exact resetBody_twin h q
  | init ch div pol gain rate => exact initBody_twin h ch div pol gain rate q

end

/-! ## The machine's step -/

section
variable {s t : State} {i : Instr} {v : Bool} {l : Label}

/-- A step that answers a next state while a command runs is the command's, at its label. -/
theorem body_of_step (hs : s.At i v l) (h : step s = .next t) : bodyOf i ⟨i, v, l⟩ s = some t := by
  obtain ⟨hl, hq⟩ := hs
  rw [step_running hl hq] at h
  rcases exec_next_cases h with ⟨hn, -⟩ | ⟨-, q, hq', -, hb⟩
  · exact absurd hl hn
  · cases hq.symm.trans hq'
    exact hb

/-- The out-of-order twin of a command takes its step, to the twin of the state it reaches. -/
theorem step_twin (hs : s.At i false l) (h : step s = .next t) :
    ∃ u, step { s with seq := some ⟨i, true, l⟩ } = .next u ∧ OutOfOrderTwin t u := by
  have htwin : OutOfOrderTwin s { s with seq := some ⟨i, true, l⟩ } := ⟨s.frame, by rw [hs.2]; rfl⟩
  have hrel := bodyOf_twin htwin i ⟨i, false, l⟩
  rw [body_of_step hs h] at hrel
  generalize hu : bodyOf i _ { s with seq := some ⟨i, true, l⟩ } = o at hrel
  cases hrel with
  | some htu => exact ⟨_, step_at ⟨hs.1, rfl⟩ hu, htu⟩

/-- A command that leaves the block READY has ended (R24). -/
theorem seq_none_of_ready (hs : s.At i v l) (h : step s = .next t) (ht : t.life = .ready) : t.seq = none := by
  rcases bodyOf_cases (q := ⟨i, v, l⟩) (body_of_step hs h) with ⟨-, -, rfl⟩ | hg
  · rfl
  · rcases Succeeds.goesOn hs.1 hg with ⟨hb, -⟩ | ⟨-, hn, -⟩
    · cases hb.symm.trans ht
    · exact hn

end

/-- Settles O55: the step's twin, the frame of a command that ends out of order, and acceptance from UNKNOWN. -/
theorem outOfOrderCommandRunsAsWritten : Obligations.OutOfOrderCommandRunsAsWritten := by
  refine ⟨fun s t i l hs h => ?_, fun s t i l hc hr hs h ht => ?_, fun s i hl hf hns hc hr hch => ?_⟩
  · obtain ⟨u, hu, f, rfl⟩ := step_twin hs h
    exact ⟨f, hu⟩
  · exact (bodyOf_moves (q := ⟨i, true, l⟩) (body_of_step hs h)).lost rfl hc hr (seq_none_of_ready hs h ht) (by simp [ht])
  · have hv : frameOk s.cfg.codes.sel s.frame i = false := hf ▸ frameOk_unknown hc hr
    have hbegin := passingCommandBegins s i (.inr ⟨hl, hc⟩) hch (.inr hns)
    rwa [hv] at hbegin

end Sys2Proof.Machine
end

section
/-! PROOFS. WRCLK and WRSETUP, label by label (R120, R121): one transfer of one byte, with which the command ends. -/

namespace Sys2Proof.Machine

/-- A label that sends one byte, ignores the answer and ends its command with `frame` IDLE (R120, R121): the step, the
transport completing. -/
theorem exec_writes_byte {s : State} {i : Instr} {v : Bool} {l : Label} {b : Byte} {rx : List Byte} (hs : s.At i v l)
    (hb : bodyOf i ⟨i, v, l⟩ s =
      some (xfer [b] (fun _ s => s.complete (MicroSeq.frameAfter ⟨i, v, l⟩ .idle) nothingData) s))
    (hg : s.Gives 0 1 rx) : exec i s = .next { s.exchanged [b] rx with
      frame := if v then .unknown else .idle, rsp := some ⟨.none, 0⟩, life := .ready, seq := none } :=
  exec_at hs (hb.trans (congrArg some (xfer_gives (tx := [b]) hg _)))

/-- Settles O24: W0 sends the CLOCK byte and ends WRCLK. -/
theorem wrclkCompletes : Obligations.WrclkCompletes := fun _ _ _ _ _ _ hs hg =>
  exec_writes_byte hs rfl hg

/-- Settles O25: T0 sends the SETUP byte and ends WRSETUP, whatever the mode. -/
theorem wrsetupCompletes : Obligations.WrsetupCompletes := fun _ _ _ _ _ _ _ _ hs hg =>
  exec_writes_byte hs rfl hg

end Sys2Proof.Machine
end

section
/-! PROOFS. READV's scaling law (R144): exact product, truncating division, bounds, monotony and end points. -/

namespace Sys2Proof.Machine

theorem scale_le_reference (raw reference : Word16) : scale raw reference ≤ reference.toNat :=
  Nat.div_le_of_le_mul (Nat.mul_le_mul_right _ (Nat.le_of_lt_succ raw.isLt))

/-- The product is exact in 32 bits (R144). -/
theorem mul_lt_two_pow_32 (raw reference : Word16) : raw.toNat * reference.toNat < 2 ^ 32 :=
  (Nat.mul_lt_mul'' raw.isLt reference.isLt).trans_eq (by decide)

theorem scale_mono_raw {raw raw' : Word16} (reference : Word16) (h : raw.toNat ≤ raw'.toNat) :
    scale raw reference ≤ scale raw' reference :=
  Nat.div_le_div_right (Nat.mul_le_mul_right _ h)

theorem scale_mono_reference (raw : Word16) {reference reference' : Word16} (h : reference.toNat ≤ reference'.toNat) :
    scale raw reference ≤ scale raw reference' :=
  Nat.div_le_div_right (Nat.mul_le_mul_left _ h)

theorem scale_zero (reference : Word16) : scale 0 reference = 0 := by simp [scale]

theorem scale_fullScale (reference : Word16) : scale 65535 reference = reference.toNat :=
  Nat.mul_div_cancel_left _ (by decide)

/-- The response loses no bit of the scaled value (R93). -/
theorem voltData_toNat (raw reference : Word16) : (voltData raw reference).toNat = scale raw reference := by
  have hle := scale_le_reference raw reference
  have hlt := reference.isLt
  exact (BitVec.toNat_ofNat _ _).trans (Nat.mod_eq_of_lt (by omega))

/-- Settles O57: each clause is a law of the truncating division of the product. -/
theorem scalingLaw : Obligations.ScalingLaw :=
  ⟨fun raw reference =>
      ⟨rfl, scale_le_reference raw reference, mul_lt_two_pow_32 raw reference, voltData_toNat raw reference⟩,
    fun _ _ reference => scale_mono_raw reference, fun raw _ _ => scale_mono_reference raw,
    fun reference => ⟨scale_zero reference, scale_fullScale reference⟩⟩

end Sys2Proof.Machine
end

section
/-! PROOFS. RDCONV, DRDY, READ and READV, label by label (R140 to R145). -/

namespace Sys2Proof.Machine

section
variable {s : State} {i : Instr} {v : Bool} {l : Label}

/-- A step of the running command is its meaning at its label. -/
theorem exec_eq_step (hs : s.At i v l) : exec i s = step s := (step_running hs.1 hs.2).symm

/-- A label that frames a register access (R52, R65): the step, the transport completing. -/
theorem step_frames {sel : Sel} {ch : Chan} {dir : Bit} {next : Label} {rx : List Byte} (hs : s.At i v l)
    (hb : bodyOf i ⟨i, v, l⟩ s = some (frameAccess sel ch dir next ⟨i, v, l⟩ s)) (hg : s.Gives 0 1 rx) :
    step s = .next { s.exchanged [commByte sel ch dir] rx with
      frame := .framed sel ch dir, seq := some ⟨i, v, next⟩ } :=
  step_at hs (hb.trans (congrArg some (xfer_gives (tx := [_]) hg _)))

/-! ## The raw word and the status bit as responses -/

/-- A label that reads the data word and responds with it (R140 Q0, R141 L3): the step, the transport completing. -/
theorem exec_responds_word {b0 b1 : Byte} (hs : s.At i v l)
    (hb : bodyOf i ⟨i, v, l⟩ s =
      some (readWord (fun raw s => s.complete (MicroSeq.frameAfter ⟨i, v, l⟩ .idle) (rawData raw)) s))
    (hg : s.Gives 0 2 [b0, b1]) : exec i s = .next { s.exchanged [s.cfg.dummyTx, s.cfg.dummyTx] [b0, b1] with
      frame := if v then .unknown else .idle
      rsp := some ⟨.none, BitVec.ofNat 32 (b0.toNat * 256 + b1.toNat)⟩, life := .ready, seq := none } := by
  rw [← rawData_dataWord]
  exact exec_at hs (hb.trans (congrArg some (readWord_gives hg _)))

/-- Settles O26: Q0 reads the word and responds with it. -/
theorem rdconvCompletes : Obligations.RdconvCompletes := fun _ _ _ _ hs hg =>
  exec_responds_word hs rfl hg

/-- Settles O29: L3 reads the word and responds with it. -/
theorem readCompletes : Obligations.ReadCompletes := fun _ _ _ _ _ hs hg =>
  exec_responds_word hs rfl hg

/-- Settles O27: Y0 frames the communication register, Y1 responds with bit 7 of the status byte, inverted. -/
theorem drdyCompletes : Obligations.DrdyCompletes := by
  refine ⟨fun s ch v rx hs hg => (exec_eq_step hs).trans (step_frames hs rfl hg), fun s ch v b hs hg => ?_⟩
  rw [← readyData_readyByte]
  exact exec_at hs (congrArg some (pollRead_gives hg _))

/-! ## READ and READV up to the data word (R141, R142) -/

/-- The two commands that sample a channel once it is ready (R141, R142). -/
def Samples (ch : Chan) (i : Instr) : Prop := i = .read ch ∨ ∃ r, i = .readv ch r

theorem Samples.polls {ch : Chan} (hi : Samples ch i) : Polls ch i .l0y0 .l0y1 .l1 := by
  rcases hi with rfl | ⟨r, rfl⟩
  · exact .read
  · exact .readv r

/-- The ready poll is over (R141 L1). -/
theorem Samples.step_ready {ch : Chan} (hi : Samples ch i) (hs : s.At i v (.l1 true)) :
    step s = .next { s with seq := some ⟨i, v, .l2⟩ } := by
  rcases hi with rfl | ⟨r, rfl⟩ <;> exact step_at hs rfl

/-- The COMM byte of the data read (R141 L2). -/
theorem Samples.step_frames_data {ch : Chan} {rx : List Byte} (hi : Samples ch i) (hs : s.At i v .l2)
    (hg : s.Gives 0 1 rx) : step s = .next { s.exchanged [commByte s.cfg.codes.sel.data ch 1] rx with
      frame := .framed s.cfg.codes.sel.data ch 1, seq := some ⟨i, v, .l3⟩ } := by
  rcases hi with rfl | ⟨r, rfl⟩ <;> exact step_frames hs rfl hg

/-- Settles O28: the two transfers of a poll, the ready poll, and the framing of the data register. -/
theorem readPollsThenFramesData : Obligations.ReadPollsThenFramesData := by
  intro s i ch v (hi : Samples ch i)
  refine ⟨fun rx hs hg => ?_, fun b hs hg => ?_, fun hs => ?_, fun rx hs hg => ?_⟩ <;> rw [exec_eq_step hs]
  · obtain ⟨r, rfl⟩ := gives_one hg
    exact poll_frame hi.polls hs hg
  · exact poll_read hi.polls hs hg
  · exact hi.step_ready hs
  · exact hi.step_frames_data hs hg

/-! ## READV from the data word on (R142) -/

/-- READV reads the data word and keeps it in its next label (R141 L3, R142). -/
theorem readv_keeps_word {ch : Chan} {reference : Word16} {b0 b1 : Byte} (hs : s.At (.readv ch reference) v .l3)
    (hg : s.Gives 0 2 [b0, b1]) :
    step s = .next { s.exchanged [s.cfg.dummyTx, s.cfg.dummyTx] [b0, b1] with
      frame := .idle, seq := some ⟨.readv ch reference, v, .v1 (dataWord b0 b1)⟩ } :=
  step_at hs (congrArg some (readWord_gives hg _))

/-- READV scales the word it kept (R142 V1). -/
theorem readv_scales {ch : Chan} {reference raw : Word16} (hs : s.At (.readv ch reference) v (.v1 raw)) :
    step s = .next { s with
      frame := if v then .unknown else .idle, rsp := some ⟨.none, voltData raw reference⟩, life := .ready, seq := none } :=
  step_at hs rfl

/-- Settles O30: L3 keeps the word, V1 scales it. -/
theorem readvCompletes : Obligations.ReadvCompletes := by
  refine ⟨fun s ch reference v b0 b1 hs hg => ?_, fun s ch reference raw v hs => ?_⟩ <;> rw [exec_eq_step hs]
  · rw [← dataWord_eq]
    exact readv_keeps_word hs hg
  · exact readv_scales hs

/-! ## After an unready poll (R145) -/

/-- Settles O33: the three commands that poll, each with its POLL_BOUND reached or not. -/
theorem unreadyPollCountsAndLoops : Obligations.UnreadyPollCountsAndLoops := by
  intro s i v l p hi hs
  have hpolls : ∃ ch y f, Polls ch i p y f ∧ l = f false := by
    rcases hi with ⟨⟨ch, rfl⟩, rfl, rfl⟩ | ⟨⟨ch, r, rfl⟩, rfl, rfl⟩ | ⟨⟨ch, d, o, g, r, rfl⟩, rfl, rfl⟩
    · exact ⟨ch, _, _, .read, rfl⟩
    · exact ⟨ch, _, _, .readv r, rfl⟩
    · exact ⟨ch, _, _, .init d o g r, rfl⟩
  obtain ⟨ch, y, f, hp, rfl⟩ := hpolls
  rw [exec_eq_step hs]
  exact ⟨fun ⟨_, hn, hle⟩ => poll_timeout hp hs hn hle, poll_again hp hs⟩

end

end Sys2Proof.Machine
end

section
/-! PROOFS. Whole READ and READV, from the presented word to the response (R141, R142, R145). -/

namespace Sys2Proof.Machine

section
variable {ch : Chan} {a st : Nat → Byte} {s : State} {c d0 d1 : Byte}

/-- The wire trace of the polls and the data access. -/
theorem polled_wordRead_trace (n : Nat) : ((polled ch a st s n).wordRead ch c d0 d1).trace =
    s.trace ++ pollEvents s.cfg ch a st n ++
      [⟨[commByte s.cfg.codes.sel.data ch 1], [c]⟩, ⟨[s.cfg.dummyTx, s.cfg.dummyTx], [d0, d1]⟩] := by
  simp [State.wordRead, polled_trace]

/-- READV from its ready poll on (R141 L1 to L3, R142 V1): the transfers of READ, and the scaled word. -/
theorem readv_word {reference : Word16} (hs : s.At (.readv ch reference) false (.l1 true)) (h0 : s.Gives 0 1 [c])
    (h1 : s.Gives 1 2 [d0, d1]) : stepN 4 s = .next { s.wordRead ch c d0 d1 with
      rsp := some ⟨.none, voltData (dataWord d0 d1) reference⟩ } := by
  have hi : Samples ch (.readv ch reference) := .inr ⟨reference, rfl⟩
  let q : MicroSeq := ⟨.readv ch reference, false, .l1 true⟩
  let s2 := s.goto q .l2
  let s3 := { s2.exchanged [commByte s.cfg.codes.sel.data ch 1] [c] with
    frame := .framed s.cfg.codes.sel.data ch 1 }.goto q .l3
  have hl1 : step s = .next s2 := hi.step_ready hs
  have hl2 : step s2 = .next s3 := hi.step_frames_data (v := false) ⟨hs.1, rfl⟩ h0
  have hl3 := readv_keeps_word (s := s3) (v := false) ⟨hs.1, rfl⟩ (gives_after 1 h1 rfl rfl)
  refine (stepN_succ hl1 3).trans ((stepN_succ hl2 2).trans ((stepN_succ hl3 1).trans (stepN_one ?_)))
  exact readv_scales (v := false) ⟨hs.1, rfl⟩

/-- Whole READV, with `k` unready polls. -/
theorem readv_runs {reference : Word16} {rest : List Word32} {k : Nat} (hp : Presents s (.readv ch reference) rest)
    (hb : ∀ n, s.cfg.pollBound = some n → k < n) (hg : s.GivesPolls 0 (k + 1) a st)
    (hu : ∀ j < k, (st j).getLsbD 7 = true) (hr : (st k).getLsbD 7 = false)
    (h0 : s.Gives (2 * k + 2) 1 [c]) (h1 : s.Gives (2 * k + 3) 2 [d0, d1]) :
    stepN (3 * k + 7) s = .next { (polled ch a st s (k + 1)).wordRead ch c d0 d1 with
      cmds := rest, pollCount := k, rsp := some ⟨.none, voltData (dataWord d0 d1) reference⟩ } := by
  have hpolls := polls_ready_with (.readv reference (ch := ch)) s rest s.chan k hb hg hu hr
  have hword := readv_word (ch := ch) (c := c) (d0 := d0) (d1 := d1) (s := { polled ch a st s (k + 1) with
      cmds := rest, life := .busy, seq := some ⟨.readv ch reference, false, .l1 true⟩, pollCount := k, chan := s.chan })
    ⟨rfl, rfl⟩ ((polled_gives (k + 1) 0 _ _).mpr h0) ((polled_gives (k + 1) 1 _ _).mpr h1)
  rw [show 3 * k + 7 = 3 * k + 2 + 4 + 1 by omega]
  exact (hp.runs (stepN_then hpolls hword)).trans (by simp [State.wordRead])

end

/-- Settles O35: acceptance, `k` unready polls, a ready one, and the data access of READ. -/
theorem readReturnsTheWordOnceReady : Obligations.ReadReturnsTheWordOnceReady := by
  intro s ch rest k a st c d0 d1 hl hf hch hc hb hg hu hr h0 h1
  have hp : Presents s (.read ch) rest := ⟨hl, hc, nofun, wf_of_channel rfl hch, decide_eq_true hf⟩
  rw [← rawData_dataWord]
  exact ⟨_, read_runs hp hb hg hu hr h0 h1, polled_wordRead_trace (k + 1), rfl, rfl, rfl, rfl, rfl, polled_fault _,
    polled_chan _, polled_cfg _, rfl⟩

/-- Settles O36: as READ, the word scaled before the response. -/
theorem readvScalesTheWordOnceReady : Obligations.ReadvScalesTheWordOnceReady := by
  intro s ch reference rest k a st c d0 d1 hl hf hch hc hb hg hu hr h0 h1
  have hp : Presents s (.readv ch reference) rest := ⟨hl, hc, nofun, wf_of_channel rfl hch, decide_eq_true hf⟩
  rw [← voltData_dataWord]
  exact ⟨_, readv_runs hp hb hg hu hr h0 h1, polled_wordRead_trace (k + 1), rfl, rfl, rfl, rfl, rfl, polled_fault _,
    polled_chan _, polled_cfg _, rfl⟩

end Sys2Proof.Machine
end

section
/-! PROOFS. RESET and INIT, label by label (R170, R171), and whole INIT, from the presented word to the response (R172, R174). -/

namespace Sys2Proof.Machine

/-! ## RESET, label by label (R76, R170) -/

/-- Settles O31: Z0, a SYNC byte of Z1, the exit of Z1 at RESET_COUNT, and Z2. -/
theorem resetCompletes : Obligations.ResetCompletes := by
  intro s v
  refine ⟨fun hs => exec_at hs rfl, fun i rx hi hs hg => ?_,
    fun hs => exec_at hs (congrArg some (if_neg (by decide))), fun hs => exec_at hs rfl⟩
  obtain ⟨x, rfl⟩ := gives_one hg
  exact (exec_eq_step hs).trans (reset_sync hs hi hg)

/-! ## INIT, label by label (R171, R172, R103) -/

/-- Settles O32: two framed writes, the two transfers of a poll, the ready poll, and the end. -/
theorem initCompletes : Obligations.InitCompletes := by
  intro s ch div pol gain rate v
  have hpolls : Polls ch (.init ch div pol gain rate) .i4y0 .i4y1 .i5 := .init div pol gain rate
  refine ⟨fun rx hs hg => ?i0, fun rx hs hg => ?i1, fun rx hs hg => ?i2, fun rx hs hg => ?i3, fun rx hs hg => ?i4y0,
    fun b hs hg => ?i4y1, fun hs => ?i5, fun hs => ?i6⟩ <;> rw [exec_eq_step hs]
  case i0 => exact step_frames hs rfl hg
  case i1 => exact step_transfers (tx := [_]) hs rfl hg
  case i2 => exact step_frames hs rfl hg
  case i3 => exact step_transfers (tx := [_]) hs rfl hg
  case i4y0 => exact step_frames hs rfl hg
  case i4y1 => exact poll_read hpolls hs hg
  case i5 => exact step_at hs rfl
  case i6 => exact step_at hs rfl

/-! ## Whole INIT (R171, R172, R174, R145) -/

/-- The wire trace of the four register transfers. -/
theorem configured_trace {s : State} {ch : Chan} {clk setup r0 r1 r2 r3 : Byte} :
    (s.configured ch clk setup r0 r1 r2 r3).trace = s.trace ++
      [⟨[commByte s.cfg.codes.sel.clock ch 0], [r0]⟩, ⟨[clk], [r1]⟩,
        ⟨[commByte s.cfg.codes.sel.setup ch 0], [r2]⟩, ⟨[setup], [r3]⟩] := by
  simp [State.configured]

/-- Two updates of one channel code, as INIT's by way of CALIBRATING to READY (R172), move no other. -/
theorem PerChan.get_set_set_other {α : Type} (x : PerChan α) {ch ch' : Chan} (a b : α) (h : ch' ≠ ch) :
    ((x.set ch a).set ch b).get ch' = x.get ch' :=
  (PerChan.get_set_other _ b h).trans (PerChan.get_set_other x a h)

/-- Settles O37: acceptance, the four register transfers, `k` unready polls, a ready one, and the end of INIT. -/
theorem initBringsChannelUpOnceReady : Obligations.InitBringsChannelUpOnceReady := by
  intro s ch div pol gain rate rest k a st r0 r1 r2 r3 hl hf hch hc hb h0 h1 h2 h3 hg hu hr
  have hp : Presents s (.init ch div pol gain rate) rest := ⟨hl, hc, nofun, wf_of_channel rfl hch, decide_eq_true hf⟩
  refine ⟨_, init_runs hp hb h0 h1 h2 h3 hg hu hr, ?trace, PerChan.get_set_same _ _ _,
    fun ch' hne => PerChan.get_set_set_other s.chan _ _ hne, rfl, rfl, rfl, rfl, rfl, polled_fault _, polled_cfg _, rfl⟩
  exact (polled_trace (k + 1)).trans (congrArg (· ++ pollEvents s.cfg ch a st (k + 1)) configured_trace)

end Sys2Proof.Machine
end

section
/-! PROOFS. The outcomes that are no success (spec 60_exceptions.md): the codes, refusals, the transport fault, the poll loop that
hangs or times out, and that none of them leaves the block without a next step. -/

namespace Sys2Proof.Machine

/-! ## Refusals and their codes (R190, R195) -/

/-- Settles O45: the table of R190. -/
theorem outcomeCodes : Obligations.OutcomeCodes := ⟨rfl, rfl, rfl, rfl, rfl, rfl, rfl, rfl, rfl⟩

theorem errCode_of_isRefusal {e : Err} (h : e.isRefusal = true) : 3 ≤ (errCode e).toNat ∧ (errCode e).toNat ≤ 8 := by
  revert h; cases e <;> decide

/-- A refused word is consumed, and changes `rsp` alone, to one of the codes 3 to 8. -/
theorem refuse_word {s : State} {w : Word32} {rest : List Word32} {e : Err} (hc : s.cmds = w :: rest)
    (he : e.isRefusal = true) : ∃ e' : Err, 3 ≤ (errCode e').toNat ∧ (errCode e').toNat ≤ 8 ∧
      { s with cmds := rest }.refuse e = { s with cmds := s.cmds.tail, rsp := some ⟨e', 0⟩ } :=
  ⟨e, (errCode_of_isRefusal he).1, (errCode_of_isRefusal he).2, by rw [hc]; rfl⟩

/-- Settles O21: of the five things a step can do, two refuse a word, and both write a refusal's code. -/
theorem refusalChangesOnlyTheResponse : Obligations.RefusalChangesOnlyTheResponse := by
  intro s t hr h
  rcases step_cases h with ⟨hl, hc, -⟩ | ⟨w, rest, hl, hc, -, rfl⟩ | ⟨w, rest, i, e, hl, hc, -, he, rfl⟩ |
    ⟨w, rest, i, hl, hc, hd, hn, -⟩ | ⟨q, hl, -, -⟩
  · simp [stepRefuses, hl, State.fetch, hc] at hr
  · exact refuse_word hc (by split <;> rfl)
  · exact refuse_word hc (refusalOf_isRefusal he)
  · simp [stepRefuses, hl, State.fetch, hc, hd, hn] at hr
  · simp [stepRefuses, hl] at hr

/-! ## A running command has a step at each of its labels (R24) -/

/-- The step at every label of the command's own. -/
theorem bodyOf_defined (q : MicroSeq) (s : State) (h : q.label.belongs q.cmd = true) :
    ∃ t, bodyOf q.cmd q s = some t := by
  obtain ⟨i, v, l⟩ := q
  cases i with
  | construct =>
    cases l with
    | k0 | k1 => exact ⟨_, rfl⟩
    | _ => cases h
  | select | wrclk | wrsetup | rdconv =>
    obtain rfl := of_decide_eq_true h
    exact ⟨_, rfl⟩
  | read =>
    cases l with
    | l0y0 | l0y1 | l1 | l2 | l3 => exact ⟨_, rfl⟩
    | _ => cases h
  | readv =>
    cases l with
    | l0y0 | l0y1 | l1 | l2 | l3 | v1 => exact ⟨_, rfl⟩
    | _ => cases h
  | drdy =>
    cases l with
    | y0 | y1 => exact ⟨_, rfl⟩
    | _ => cases h
  | reset =>
    cases l with
    | z0 | z1 | z2 => exact ⟨_, rfl⟩
    | _ => cases h
  | init =>
    cases l with
    | i0 | i1 | i2 | i3 | i4y0 | i4y1 | i5 | i6 => exact ⟨_, rfl⟩
    | _ => cases h

/-- While no command runs the block waits, refuses or accepts (R100). -/
theorem step_idle_next {s : State} (hl : s.life ≠ .busy) : ∃ t, step s = .next t := by
  cases hc : s.cmds with
  | nil => exact ⟨_, step_waits hl hc⟩
  | cons w rest =>
    cases hd : decode w with
    | error r => exact ⟨_, step_illegal hl hc hd⟩
    | ok i => exact ⟨_, (step_presents hl hc hd).trans (exec_idle (by exact hl) i)⟩

/-- Settles O15: a running command is at a label of its own, where it has a step; an idle block has one whatever word comes. -/
theorem blockIsNeverStuck : Obligations.BlockIsNeverStuck := by
  intro s hs
  by_cases hl : s.life = .busy
  · obtain ⟨q, hq⟩ := Option.isSome_iff_exists.mp (hs.seq_iff.mpr hl)
    obtain ⟨t, hb⟩ := bodyOf_defined q s (hs.seq_fits q hq).label
    exact ⟨t, (step_running hl hq).trans (exec_running hl hq rfl hb)⟩
  · exact step_idle_next hl

/-! ## The transport fault (R191, R198) -/

/-- An act that the transport fails is the fault, whichever command made it. -/
theorem bodyOf_fails {q : MicroSeq} {s t : State} (hb : bodyOf q.cmd q s = some t) (ha : q.label.acts = true)
    (hf : s.answer 0 = .fail) : t = s.transportFault := by
  rcases bodyOf_cases hb with ⟨-, -, ht⟩ | hs
  · exact ht
  · exact absurd hf (Succeeds.answer_ne_fail hs ha)

/-- Settles O42: the command has a step at the label, and that step is the fault. -/
theorem transportFaultAborts : Obligations.TransportFaultAborts := by
  intro s q hl hq hlab ha hf
  obtain ⟨t, hb⟩ := bodyOf_defined q s hlab
  obtain rfl := bodyOf_fails hb ha hf
  exact ⟨_, exec_running hl hq rfl hb, rfl, rfl, rfl, rfl, rfl, rfl, rfl, rfl, rfl, rfl⟩

/-! ## Unready polls: the command that hangs, and the one that times out (R145, R192, R196) -/

section
variable {ch : Chan} {a st : Nat → Byte} {s : State} {i : Instr} {v : Bool} {p y : Label} {l : Bool → Label}

/-- The commands that poll, each at the first label of its poll. -/
theorem exists_polls (h : (i = .read ch ∧ p = .l0y0) ∨ ((∃ r, i = .readv ch r) ∧ p = .l0y0) ∨
    ((∃ d o g r, i = .init ch d o g r) ∧ p = .i4y0)) : ∃ y l, Polls ch i p y l := by
  rcases h with ⟨rfl, rfl⟩ | ⟨⟨r, rfl⟩, rfl⟩ | ⟨⟨d, o, g, r, rfl⟩, rfl⟩
  · exact ⟨_, _, .read⟩
  · exact ⟨_, _, .readv r⟩
  · exact ⟨_, _, .init d o g r⟩

/-- `k` unready polls, then one more, whatever it finds. -/
theorem polls_then_poll (h : Polls ch i p y l) (hs : s.At i v p) (k : Nat)
    (hb : ∀ n, s.cfg.pollBound = some n → s.pollCount + k < n) (hg : s.GivesPolls 0 (k + 1) a st)
    (hu : ∀ j < k, (st j).getLsbD 7 = true) :
    stepN (3 * k + 2) s = .next { polled ch a st s (k + 1) with
      pollCount := s.pollCount + k, seq := some ⟨i, v, l (!(st k).getLsbD 7)⟩ } := by
  have hunready := polls_unready h hs k hb (fun j hj => hg j (by omega)) hu
  obtain ⟨hx, hst⟩ := hg k (by omega)
  have hpoll := poll_two (s := { polled ch a st s k with pollCount := s.pollCount + k }) h
    ⟨(polled_life k).trans hs.1, (polled_seq k).trans hs.2⟩
    ((polled_gives k 0 1 _).mpr (by simpa using hx)) ((polled_gives k 1 1 _).mpr (by simpa using hst))
  exact (stepN_then hunready hpoll).trans (by simp [polled, State.exchanged])

/-- As many unready polls as POLL_BOUND end the command (R145, R192). -/
theorem polls_timeout (h : Polls ch i p y l) (hs : s.At i v p) (hc : s.pollCount = 0) {k : Nat}
    (hn : s.cfg.pollBound = some (k + 1)) (hg : s.GivesPolls 0 (k + 1) a st)
    (hu : ∀ j < k + 1, (st j).getLsbD 7 = true) :
    stepN (3 * (k + 1)) s = .next { polled ch a st s (k + 1) with
      pollCount := k + 1, frame := if v then .unknown else .idle, rsp := some ⟨.protocolTimeout, 0⟩
      life := .ready, seq := none } := by
  have hbound : ∀ n, s.cfg.pollBound = some n → s.pollCount + k < n := fun n hn' => by
    cases hn.symm.trans hn'
    omega
  have hpolls := polls_then_poll h hs k hbound hg (fun j hj => hu j (by omega))
  rw [hu k (by omega), hc, Nat.zero_add] at hpolls
  have hend := poll_timeout (v := v) (n := k + 1) h (s := { polled ch a st s (k + 1) with
    pollCount := k, seq := some ⟨i, v, l false⟩ }) ⟨(polled_life _).trans hs.1, rfl⟩
    ((congrArg Config.pollBound (polled_cfg _)).trans hn) (le_refl _)
  rw [show 3 * (k + 1) = 3 * k + 2 + 1 by omega]
  exact stepN_then hpolls (stepN_one hend)

end

/-- Settles O38: without a bound every unready poll leads back to the poll. -/
theorem unreadyChipHangsTheCommand : Obligations.UnreadyChipHangsTheCommand := by
  intro s i ch v p n a st hi hs hb hg hu
  obtain ⟨y, l, h⟩ := exists_polls hi
  exact ⟨_, polls_unready h hs n (by simp [hb]) hg hu, ⟨(polled_life n).trans hs.1, (polled_seq n).trans hs.2⟩,
    polled_rsp n, polled_trace n, polled_chan n, polled_fault n, rfl, polled_cmds n⟩

/-- Settles O39: the last of POLL_BOUND unready polls ends the command; the polls are its only transfers. -/
theorem boundedPollTimesOut : Obligations.BoundedPollTimesOut := by
  intro s i ch p n a st hi hs hc hb hn hg hu
  obtain ⟨y, l, h⟩ := exists_polls hi
  obtain ⟨k, rfl⟩ := Nat.exists_eq_add_of_le' hn
  exact ⟨_, polls_timeout h hs hc hb hg hu, rfl, rfl, rfl, rfl, polled_fault _, polled_chan _, polled_cmds _, polled_trace _⟩

end Sys2Proof.Machine
end
